-- ==== Sys2Proof/Word.lean ====
section
/-! DEFINITION. The word types of the block: bytes, nibbles, 3-bit sequence numbers and the 16- and 32-bit fields
(spec 00_scope.md R9). -/

namespace Sys2Proof

/-- An unsigned 8-bit value 0..255 (R9). -/
abbrev Byte := BitVec 8

/-- An unsigned 4-bit value 0..15: a KISS port, a KISS command, an SSID (R9). -/
abbrev Nibble := BitVec 4

/-- A 3-bit value: N(S), N(R) or the raw bits 7:5 of an SSID byte (R77, R98). -/
abbrev Bits3 := BitVec 3

/-- A 16-bit value: a status counter, an FCS (R23, R200). -/
abbrev Word16 := BitVec 16

/-- A 32-bit value: the signed millisecond operand of KISS_SET_TXDELAY (R81). -/
abbrev Word32 := BitVec 32

end Sys2Proof
end

