-- ==== Sys2Proof/Config.lean ====
section
/-! DEFINITION. The parameters the block is built with (spec 00_scope.md R7). They are fixed for a run and no
operation writes them (10_state.md R31, 70_reset_and_hazards.md R262). The block has no free value: the spec leaves no
result open (see log entry 3). -/

namespace Sys2Proof

/-- `BAD_ESC`: what the unescaper does with FESC followed by a byte other than TFEND or TFESC (R121, D10). -/
inductive BadEsc where
  | pass
  | drop
  | keep
deriving DecidableEq, Repr

/-- `FCS_MODE`: whether PARSE checks and strips a trailing FCS (R190, D26). -/
inductive FcsMode where
  | none
  | crc16X25
deriving DecidableEq, Repr

/-- The open parameters of R7, one field each. -/
structure Config where
  /-- `RX_MAX`: most unescaped bytes, type byte included, the unframer holds for one frame (D13). -/
  rxMax : Nat
  /-- `BAD_ESC` (D10). -/
  badEsc : BadEsc
  /-- `FCS_MODE` (D26). -/
  fcsMode : FcsMode
  /-- `TXD_PORT`: the KISS port KISS_SET_TXDELAY sends on (D16). -/
  txdPort : Nibble
deriving DecidableEq, Repr

/-- The reference values of R7. -/
def Config.reference : Config :=
  { rxMax := 1024, badEsc := .pass, fcsMode := .none, txdPort := 0 }

/-- The floor of `RX_MAX` (R7, R26): 1 type byte, 10 address units, control, PID and 256 info bytes. -/
def rxMaxFloor : Nat := 329

/-- A configuration R7 admits: `RX_MAX` is at least its floor; the other parameters have no bad value. -/
abbrev Config.wf (c : Config) : Prop := rxMaxFloor ≤ c.rxMax

/-- `MAX_PATH_TX`: most digipeater addresses the encoder accepts (R7). -/
def maxPathTx : Nat := 8

end Sys2Proof
end

