-- ==== Sys2Proof/Syntax.lean ====
section
/-! DEFINITION. The instructions: one constructor for each of the 47 rows of spec/opcode_table.json, with its operands.
Rows of format CMD are the commands of the host (30_encoding.md R82, R83); PSEUDO rows are their second spellings (R88);
KISS_RX rows are the bytes of the RX line by unframer state (40_kiss.md R130); KISS_TYPE, AX25_CTL, AX25_PID and
AX25_ADDR rows are the wire elements the block meets inside a step (R72, R74, R77, R78; log entry 2). -/

namespace Sys2Proof

/-- The fault codes of 60_exceptions.md R230, which a refused command reports. -/
inductive FaultCode where
  | illegalOp
  | badOperand
  | badSsid
  | badChar
  | pathTooLong
  | badSeq
  | badCtr
deriving DecidableEq, Repr

/-- `rxMode` (10_state.md R22, R25). -/
inductive RxMode where
  | hunt
  | frame
deriving DecidableEq, Repr

/-- The five status counters, numbers 0 to 4 in this order (10_state.md R23). -/
inductive CtrId where
  | rxData
  | rxNondata
  | rxOverrun
  | parseNull
  | fcsBad
deriving DecidableEq, Repr

/-- An `addr` operand (R81): callsign bytes and SSID. -/
structure Addr where
  callsign : List Byte
  ssid : Nibble
deriving DecidableEq, Repr

/-- A 7-byte address unit (R74): six shifted callsign characters and the SSID byte. -/
structure AddrUnit where
  c0 : Byte
  c1 : Byte
  c2 : Byte
  c3 : Byte
  c4 : Byte
  c5 : Byte
  ssidByte : Byte
deriving DecidableEq, Repr

/-- The operation codes of R82. -/
inductive Op where
  | kissSend
  | kissSetTxdelay
  | kissEscape
  | kissUnescape
  | lineReset
  | encAddr
  | buildHeader
  | buildUi
  | buildU
  | buildI
  | decAddr
  | parse
  | classify
  | fcsCalc
  | fcsCheck
  | ctrRead
  | ctrClear
deriving DecidableEq, Repr

/-- The table's "format" of a row: the place of the block that reads the row's word. -/
inductive Format where
  | cmd
  | pseudo
  | kissRx
  | kissType
  | ax25Ctl
  | ax25Pid
  | ax25Addr
deriving DecidableEq, Repr

/-- One constructor for each row of the opcode table. -/
inductive Instr where
  -- CMD: the 17 operations of R82 and the reserved codes of R83
  | kissSend (type : Byte) (payload : List Byte)
  | kissSetTxdelay (ms : Word32)
  | kissEscape (data : List Byte)
  | kissUnescape (data : List Byte)
  | lineReset
  | encAddr (a : Addr) (last : Bool)
  | buildHeader (src dest : Addr) (path : List Addr)
  | buildUi (src dest : Addr) (path : List Addr) (info : List Byte)
  | buildU (src dest : Addr) (path : List Addr) (ctrl : Byte)
  | buildI (src dest : Addr) (path : List Addr) (ns nr : Bits3) (info : List Byte)
  | decAddr (unit : AddrUnit)
  | parse (frame : List Byte)
  | classify (ctrl : Byte)
  | fcsCalc (data : List Byte)
  | fcsCheck (data : List Byte)
  | ctrRead (n : CtrId)
  | ctrClear
  | reservedOp (op : Byte) (rest : List Byte)
  -- PSEUDO: R88
  | buildSabm (src dest : Addr) (path : List Addr)
  | buildUa (src dest : Addr) (path : List Addr)
  | buildDisc (src dest : Addr) (path : List Addr)
  | buildDm (src dest : Addr) (path : List Addr)
  | kissData (port : Nibble) (payload : List Byte)
  -- KISS_RX: R130, by unframer state
  | rxHuntFend
  | rxHuntOther (b : Byte)
  | rxFrameFend
  | rxFrameFesc
  | rxFrameOther (b : Byte)
  | rxEscTfend
  | rxEscTfesc
  | rxEscOther (b : Byte)
  -- KISS_TYPE: the type byte of a received frame, R72 and R132
  | kissTypeData (port : Nibble)
  | kissTypeTxdelay (port : Nibble)
  | kissTypeNondata (port cmd : Nibble)
  -- AX25_CTL: the control byte, R77 and R195; bit4 is the bit the block does not decode
  | ctlUi
  | ctlSabm
  | ctlUa
  | ctlDisc
  | ctlDm
  | ctlI (ns nr : Bits3) (bit4 : Bool)
  | ctlRr (nr : Bits3) (bit4 : Bool)
  | ctlRnr (nr : Bits3) (bit4 : Bool)
  | ctlRej (nr : Bits3) (bit4 : Bool)
  | ctlSUnknown (nr : Bits3) (bit4 : Bool)
  | ctlOther (ctrl : Byte)
  -- AX25_PID: R78
  | pidNoL3
  -- AX25_ADDR: R74
  | addrUnit (unit : AddrUnit)
deriving DecidableEq, Repr

/-- The table's format of an instruction's row. -/
def Instr.format : Instr → Format
  | .kissSend _ _ => .cmd
  | .kissSetTxdelay _ => .cmd
  | .kissEscape _ => .cmd
  | .kissUnescape _ => .cmd
  | .lineReset => .cmd
  | .encAddr _ _ => .cmd
  | .buildHeader _ _ _ => .cmd
  | .buildUi _ _ _ _ => .cmd
  | .buildU _ _ _ _ => .cmd
  | .buildI _ _ _ _ _ _ => .cmd
  | .decAddr _ => .cmd
  | .parse _ => .cmd
  | .classify _ => .cmd
  | .fcsCalc _ => .cmd
  | .fcsCheck _ => .cmd
  | .ctrRead _ => .cmd
  | .ctrClear => .cmd
  | .reservedOp _ _ => .cmd
  | .buildSabm _ _ _ => .pseudo
  | .buildUa _ _ _ => .pseudo
  | .buildDisc _ _ _ => .pseudo
  | .buildDm _ _ _ => .pseudo
  | .kissData _ _ => .pseudo
  | .rxHuntFend => .kissRx
  | .rxHuntOther _ => .kissRx
  | .rxFrameFend => .kissRx
  | .rxFrameFesc => .kissRx
  | .rxFrameOther _ => .kissRx
  | .rxEscTfend => .kissRx
  | .rxEscTfesc => .kissRx
  | .rxEscOther _ => .kissRx
  | .kissTypeData _ => .kissType
  | .kissTypeTxdelay _ => .kissType
  | .kissTypeNondata _ _ => .kissType
  | .ctlUi => .ax25Ctl
  | .ctlSabm => .ax25Ctl
  | .ctlUa => .ax25Ctl
  | .ctlDisc => .ax25Ctl
  | .ctlDm => .ax25Ctl
  | .ctlI _ _ _ => .ax25Ctl
  | .ctlRr _ _ => .ax25Ctl
  | .ctlRnr _ _ => .ax25Ctl
  | .ctlRej _ _ => .ax25Ctl
  | .ctlSUnknown _ _ => .ax25Ctl
  | .ctlOther _ => .ax25Ctl
  | .pidNoL3 => .ax25Pid
  | .addrUnit _ => .ax25Addr

end Sys2Proof
end

