-- ==== Sys2Proof/WellFormed.lean ====
section
/-! DEFINITION. Which instructions an encoding exists for: the bounds of the operand fields (30_encoding.md R81, R82) and,
for a row that names a class of bytes, that the byte is of that class (opcode_table.json, R86, R130). -/

namespace Sys2Proof

/-- A `bytes16` operand: its length fits the u16 length field (R81). -/
def bytes16Wf (data : List Byte) : Bool := data.length < 65536

/-- An `addr` operand (R81): the count fits a u8, and every callsign byte the encoder keeps is below 0x80. -/
def Addr.wf (a : Addr) : Bool :=
  a.callsign.length < 256 && (a.callsign.take 6).all (fun b => decide (b.toNat < 128))

/-- A `path` operand (R81): at most `MAX_PATH_TX` entries, each well formed. -/
def pathWf (path : List Addr) : Bool :=
  path.length ≤ maxPathTx && path.all Addr.wf

/-- The `src`, `dest`, `path` operands the builders share. -/
def routeWf (src dest : Addr) (path : List Addr) : Bool :=
  src.wf && dest.wf && pathWf path

/-- The 17 assigned operation codes (R82); the other 239 are reserved (R83). -/
def assignedOps : List Byte :=
  [0x01, 0x02, 0x03, 0x04, 0x05, 0x10, 0x11, 0x12, 0x13, 0x14, 0x20, 0x21, 0x22, 0x23, 0x24, 0x30, 0x31]

/-- Which instructions are well formed. -/
def Instr.wf : Instr → Bool
  | .kissSend _ payload => bytes16Wf payload
  | .kissSetTxdelay _ => true
  | .kissEscape data => bytes16Wf data
  | .kissUnescape data => bytes16Wf data
  | .lineReset => true
  | .encAddr a _ => a.wf
  | .buildHeader src dest path => routeWf src dest path
  | .buildUi src dest path info => routeWf src dest path && bytes16Wf info
  | .buildU src dest path _ => routeWf src dest path
  | .buildI src dest path _ _ info => routeWf src dest path && bytes16Wf info
  | .decAddr _ => true
  | .parse frame => bytes16Wf frame
  | .classify _ => true
  | .fcsCalc data => bytes16Wf data
  | .fcsCheck data => bytes16Wf data
  | .ctrRead _ => true
  | .ctrClear => true
  | .reservedOp op _ => !assignedOps.contains op
  | .buildSabm src dest path => routeWf src dest path
  | .buildUa src dest path => routeWf src dest path
  | .buildDisc src dest path => routeWf src dest path
  | .buildDm src dest path => routeWf src dest path
  | .kissData _ payload => bytes16Wf payload
  | .rxHuntFend => true
  | .rxHuntOther b => b != 0xC0
  | .rxFrameFend => true
  | .rxFrameFesc => true
  | .rxFrameOther b => b != 0xC0 && b != 0xDB
  | .rxEscTfend => true
  | .rxEscTfesc => true
  | .rxEscOther b => b != 0xC0 && b != 0xDC && b != 0xDD
  | .kissTypeData _ => true
  | .kissTypeTxdelay _ => true
  | .kissTypeNondata _ cmd => cmd != 0 && cmd != 1
  | .ctlUi => true
  | .ctlSabm => true
  | .ctlUa => true
  | .ctlDisc => true
  | .ctlDm => true
  | .ctlI _ _ _ => true
  | .ctlRr _ _ => true
  | .ctlRnr _ _ => true
  | .ctlRej _ _ => true
  | .ctlSUnknown _ _ => true
  | .ctlOther ctrl => ctrl &&& 0x03 == 0x03 && !([0x03, 0x2F, 0x63, 0x43, 0x0F] : List Byte).contains ctrl
  | .pidNoL3 => true
  | .addrUnit _ => true

end Sys2Proof
end

