-- ==== Sys2Proof/Decode.lean ====
section
/-! DEFINITION. The decoder: command records (30_encoding.md R80 to R84), RX bytes by unframer state (40_kiss.md R130), type
bytes (R72), control bytes (R77, R195), the PID (R78) and address units (R74); after it the encoder, the expansion of the
pseudo-operations (R88), and the reading of one word of spec/opcode_table.json. Every function is total; a refused record
is refused by its fault code. -/

namespace Sys2Proof

/-! ### The KISS special bytes (R70) -/

/-- FEND, the frame delimiter. -/
def fend : Byte := 0xC0
/-- FESC, the escape introducer. -/
def fesc : Byte := 0xDB
/-- TFEND, after FESC stands for a data byte 0xC0. -/
def tfend : Byte := 0xDC
/-- TFESC, after FESC stands for a data byte 0xDB. -/
def tfesc : Byte := 0xDD

/-! ### Reading the fields of a record (R81, R84)

A reader takes the bytes left of the record and answers the field's value with the bytes after it, or the fault code of
the first check that fails: presence first, then the field's value checks in the order R81 lists them. -/

/-- What reading one field answers. -/
abbrev Read (α : Type) := Except FaultCode (α × List Byte)

/-- Reads one field, then goes on with the rest of the record: left to right, the first failure wins (R84, R234). -/
def andThen {α β : Type} (x : Read α) (k : α → List Byte → Except FaultCode β) : Except FaultCode β :=
  match x with
  | .ok (a, rest) => k a rest
  | .error f => .error f

/-- `u8`. -/
def readU8 : List Byte → Read Byte
  | [] => .error .badOperand
  | b :: rest => .ok (b, rest)

/-- `n` raw bytes. -/
def readBytes (n : Nat) (rest : List Byte) : Read (List Byte) :=
  if n ≤ rest.length then .ok (rest.take n, rest.drop n) else .error .badOperand

/-- `u16`, big-endian. -/
def readU16 : List Byte → Read Nat
  | hi :: lo :: rest => .ok (hi.toNat * 256 + lo.toNat, rest)
  | _ => .error .badOperand

/-- `s32`, big-endian; the two's-complement reading is made where it is used (R85). -/
def readS32 : List Byte → Read Word32
  | b3 :: b2 :: b1 :: b0 :: rest => .ok (b3 ++ b2 ++ b1 ++ b0, rest)
  | _ => .error .badOperand

/-- `bit`: 0 or 1, else `BAD_OPERAND`. -/
def readBit (rest : List Byte) : Read Bool :=
  andThen (readU8 rest) fun b rest =>
    if b = 0 then .ok (false, rest) else if b = 1 then .ok (true, rest) else .error .badOperand

/-- `bytes16`: a u16 length, then that many bytes. -/
def readBytes16 (rest : List Byte) : Read (List Byte) :=
  andThen (readU16 rest) readBytes

/-- `raw7`. -/
def readRaw7 : List Byte → Read AddrUnit
  | c0 :: c1 :: c2 :: c3 :: c4 :: c5 :: b6 :: rest => .ok (⟨c0, c1, c2, c3, c4, c5, b6⟩, rest)
  | _ => .error .badOperand

/-- The value checks of an `addr` field, in R81's order: `BAD_CHAR` over the bytes the encoder keeps, then `BAD_SSID`. -/
def checkAddr (callsign : List Byte) (ssid : Byte) : Except FaultCode Addr :=
  if (callsign.take 6).any (fun b => decide (128 ≤ b.toNat)) then .error .badChar
  else if 15 < ssid.toNat then .error .badSsid
  else .ok ⟨callsign, ssid.setWidth 4⟩

/-- `addr`: u8 n, n callsign bytes, u8 ssid; the field is present when all of these are, and is checked after that. -/
def readAddr (rest : List Byte) : Read Addr :=
  andThen (readU8 rest) fun n rest =>
  andThen (readBytes n.toNat rest) fun callsign rest =>
  andThen (readU8 rest) fun ssid rest =>
    match checkAddr callsign ssid with
    | .ok a => .ok (a, rest)
    | .error f => .error f

/-- `k` addresses one after another, each read and checked before the next (log entry 5). -/
def readAddrs : Nat → List Byte → Read (List Addr)
  | 0, rest => .ok ([], rest)
  | k + 1, rest =>
    andThen (readAddr rest) fun a rest =>
    andThen (readAddrs k rest) fun more rest => .ok (a :: more, rest)

/-- `path`: `PATH_TOO_LONG` is checked on reading the count, before any entry is read. -/
def readPath (rest : List Byte) : Read (List Addr) :=
  andThen (readU8 rest) fun k rest =>
    if maxPathTx < k.toNat then .error .pathTooLong else readAddrs k.toNat rest

/-- The number of a counter (R23). -/
def CtrId.number : CtrId → Byte
  | .rxData => 0
  | .rxNondata => 1
  | .rxOverrun => 2
  | .parseNull => 3
  | .fcsBad => 4

/-- The counter of a number; none above 4. -/
def ctrOfNumber (n : Byte) : Option CtrId :=
  [CtrId.rxData, .rxNondata, .rxOverrun, .parseNull, .fcsBad].find? fun c => c.number == n

/-- `ctr`: `BAD_CTR` above 4. -/
def readCtr (rest : List Byte) : Read CtrId :=
  andThen (readU8 rest) fun n rest =>
    match ctrOfNumber n with
    | some c => .ok (c, rest)
    | none => .error .badCtr

/-- `seq`: `BAD_SEQ` above 7. -/
def readSeq (rest : List Byte) : Read Bits3 :=
  andThen (readU8 rest) fun b rest =>
    if 7 < b.toNat then .error .badSeq else .ok (b.setWidth 3, rest)

/-- The end of a record: bytes left after the last field are `BAD_OPERAND`, the last check of all (R84). -/
def finish (i : Instr) : List Byte → Except FaultCode Instr
  | [] => .ok i
  | _ :: _ => .error .badOperand

/-! ### Command records (R82, R83) -/

/-- The OP byte of each operation (R82). -/
def Op.code : Op → Byte
  | .kissSend => 0x01
  | .kissSetTxdelay => 0x02
  | .kissEscape => 0x03
  | .kissUnescape => 0x04
  | .lineReset => 0x05
  | .encAddr => 0x10
  | .buildHeader => 0x11
  | .buildUi => 0x12
  | .buildU => 0x13
  | .buildI => 0x14
  | .decAddr => 0x20
  | .parse => 0x21
  | .classify => 0x22
  | .fcsCalc => 0x23
  | .fcsCheck => 0x24
  | .ctrRead => 0x30
  | .ctrClear => 0x31

/-- The operations in the order of R82's table. -/
def opTable : List Op :=
  [.kissSend, .kissSetTxdelay, .kissEscape, .kissUnescape, .lineReset,
   .encAddr, .buildHeader, .buildUi, .buildU, .buildI,
   .decAddr, .parse, .classify, .fcsCalc, .fcsCheck, .ctrRead, .ctrClear]

/-- The operation of an OP byte; none when it is reserved (R83). -/
def opOfByte (b : Byte) : Option Op := opTable.find? fun o => o.code == b

/-- The `src`, `dest`, `path` fields the builders begin with (R82). -/
def readRoute {β : Type} (rest : List Byte) (k : Addr → Addr → List Addr → List Byte → Except FaultCode β) :
    Except FaultCode β :=
  andThen (readAddr rest) fun src rest =>
  andThen (readAddr rest) fun dest rest =>
  andThen (readPath rest) fun path rest => k src dest path rest

/-- A record whose only operand is one `bytes16`. -/
def readData (make : List Byte → Instr) (rest : List Byte) : Except FaultCode Instr :=
  andThen (readBytes16 rest) fun data rest => finish (make data) rest

/-- The operand fields of each operation, in R82's order. -/
def decodeOperands (op : Op) (rest : List Byte) : Except FaultCode Instr :=
  match op with
  | .kissSend => andThen (readU8 rest) fun type rest => readData (.kissSend type) rest
  | .kissSetTxdelay => andThen (readS32 rest) fun ms rest => finish (.kissSetTxdelay ms) rest
  | .kissEscape => readData .kissEscape rest
  | .kissUnescape => readData .kissUnescape rest
  | .lineReset => finish .lineReset rest
  | .encAddr => andThen (readAddr rest) fun a rest => andThen (readBit rest) fun last rest => finish (.encAddr a last) rest
  | .buildHeader => readRoute rest fun src dest path rest => finish (.buildHeader src dest path) rest
  | .buildUi => readRoute rest fun src dest path rest => readData (.buildUi src dest path) rest
  | .buildU => readRoute rest fun src dest path rest =>
      andThen (readU8 rest) fun ctrl rest => finish (.buildU src dest path ctrl) rest
  | .buildI => readRoute rest fun src dest path rest =>
      andThen (readSeq rest) fun ns rest => andThen (readSeq rest) fun nr rest => readData (.buildI src dest path ns nr) rest
  | .decAddr => andThen (readRaw7 rest) fun unit rest => finish (.decAddr unit) rest
  | .parse => readData .parse rest
  | .classify => andThen (readU8 rest) fun ctrl rest => finish (.classify ctrl) rest
  | .fcsCalc => readData .fcsCalc rest
  | .fcsCheck => readData .fcsCheck rest
  | .ctrRead => andThen (readCtr rest) fun n rest => finish (.ctrRead n) rest
  | .ctrClear => finish .ctrClear rest

/-- A command record (R80, R83, R84): an empty record is `BAD_OPERAND`; a reserved OP is decided before any operand is
read, and is an instruction of its own (RESERVED_OP), whose meaning is the `ILLEGAL_OP` refusal. -/
def decodeRecord : List Byte → Except FaultCode Instr
  | [] => .error .badOperand
  | op :: rest =>
    match opOfByte op with
    | some o => decodeOperands o rest
    | none => .ok (.reservedOp op rest)

/-! ### The wire elements -/

/-- The KISS_RX row of a byte in an unframer state (R130, R121); the rows of one state in the table's order. -/
def decodeRx (mode : RxMode) (esc : Bool) (b : Byte) : Instr :=
  match mode, esc with
  | .hunt, _ => if b = fend then .rxHuntFend else .rxHuntOther b
  | .frame, false => if b = fend then .rxFrameFend else if b = fesc then .rxFrameFesc else .rxFrameOther b
  | .frame, true =>
    if b = fend then .rxFrameFend else if b = tfend then .rxEscTfend else if b = tfesc then .rxEscTfesc else .rxEscOther b

/-- Port half of a type byte, bits 7:4 (R71). -/
def typePort (t : Byte) : Nibble := t.extractLsb' 4 4

/-- Command half of a type byte, bits 3:0 (R71). -/
def typeCmd (t : Byte) : Nibble := t.extractLsb' 0 4

/-- A type byte: `(port << 4) | cmd` (R71, R85). -/
def typeByte (port cmd : Nibble) : Byte := port ++ cmd

/-- The KISS_TYPE row of a type byte (R72). -/
def decodeType (t : Byte) : Instr :=
  if t &&& 0x0F = 0x00 then .kissTypeData (typePort t)
  else if t &&& 0x0F = 0x01 then .kissTypeTxdelay (typePort t)
  else .kissTypeNondata (typePort t) (typeCmd t)

/-- The AX25_CTL row of a control byte, by the table's match and mask and its order of priority (R77, R195). -/
def decodeCtl (c : Byte) : Instr :=
  if c = 0x03 then .ctlUi
  else if c = 0x2F then .ctlSabm
  else if c = 0x63 then .ctlUa
  else if c = 0x43 then .ctlDisc
  else if c = 0x0F then .ctlDm
  else if c &&& 0x01 = 0x00 then .ctlI (c.extractLsb' 1 3) (c.extractLsb' 5 3) (c.getLsbD 4)
  else if c &&& 0x0F = 0x01 then .ctlRr (c.extractLsb' 5 3) (c.getLsbD 4)
  else if c &&& 0x0F = 0x05 then .ctlRnr (c.extractLsb' 5 3) (c.getLsbD 4)
  else if c &&& 0x0F = 0x09 then .ctlRej (c.extractLsb' 5 3) (c.getLsbD 4)
  else if c &&& 0x0F = 0x0D then .ctlSUnknown (c.extractLsb' 5 3) (c.getLsbD 4)
  else .ctlOther c

/-- The AX25_PID row: the one PID value the table names (R78); the parser takes any other value too. -/
def decodePid (b : Byte) : Option Instr := if b = 0xF0 then some .pidNoL3 else none

/-- The AX25_ADDR row: any 7 bytes are an address unit (R74, R180). -/
def decodeUnit (bytes : List Byte) : Option Instr :=
  match readRaw7 bytes with
  | .ok (unit, []) => some (.addrUnit unit)
  | _ => none

/-! ### The encoder -/

/-- `u8` of a number. -/
def byteOf (n : Nat) : Byte := BitVec.ofNat 8 n

/-- `u16` of a number, big-endian (R52). -/
def u16Bytes (n : Nat) : List Byte := [byteOf (n / 256), byteOf n]

/-- `u32` of a number, big-endian (R52, R97). -/
def u32Bytes (n : Nat) : List Byte := [byteOf (n / 16777216), byteOf (n / 65536), byteOf (n / 256), byteOf n]

/-- `s32`, big-endian (R52, R81). -/
def s32Bytes (w : Word32) : List Byte :=
  [w.extractLsb' 24 8, w.extractLsb' 16 8, w.extractLsb' 8 8, w.extractLsb' 0 8]

/-- A `bytes16` field. -/
def bytes16Field (data : List Byte) : List Byte := u16Bytes data.length ++ data

/-- A `bit` field. -/
def bitField (b : Bool) : List Byte := [if b then 1 else 0]

/-- An `addr` field. -/
def addrField (a : Addr) : List Byte := byteOf a.callsign.length :: (a.callsign ++ [a.ssid.setWidth 8])

/-- A `path` field. -/
def pathField (path : List Addr) : List Byte := byteOf path.length :: path.flatMap addrField

/-- The fields `src`, `dest`, `path`. -/
def routeFields (src dest : Addr) (path : List Addr) : List Byte := addrField src ++ addrField dest ++ pathField path

/-- The seven bytes of an address unit, in order. -/
def AddrUnit.bytes (u : AddrUnit) : List Byte := [u.c0, u.c1, u.c2, u.c3, u.c4, u.c5, u.ssidByte]

/-- A control byte from N(R), bit 4 and the low nibble of its class (R77). -/
def ctlByte (nr : Bits3) (bit4 : Bool) (low : Nibble) : Byte := nr ++ BitVec.ofBool bit4 ++ low

/-- The bytes of an instruction, at the place its format names. -/
def encode : Instr → List Byte
  | .kissSend type payload => 0x01 :: type :: bytes16Field payload
  | .kissSetTxdelay ms => 0x02 :: s32Bytes ms
  | .kissEscape data => 0x03 :: bytes16Field data
  | .kissUnescape data => 0x04 :: bytes16Field data
  | .lineReset => [0x05]
  | .encAddr a last => 0x10 :: (addrField a ++ bitField last)
  | .buildHeader src dest path => 0x11 :: routeFields src dest path
  | .buildUi src dest path info => 0x12 :: (routeFields src dest path ++ bytes16Field info)
  | .buildU src dest path ctrl => 0x13 :: (routeFields src dest path ++ [ctrl])
  | .buildI src dest path ns nr info =>
    0x14 :: (routeFields src dest path ++ ns.setWidth 8 :: nr.setWidth 8 :: bytes16Field info)
  | .decAddr unit => 0x20 :: unit.bytes
  | .parse frame => 0x21 :: bytes16Field frame
  | .classify ctrl => [0x22, ctrl]
  | .fcsCalc data => 0x23 :: bytes16Field data
  | .fcsCheck data => 0x24 :: bytes16Field data
  | .ctrRead n => [0x30, n.number]
  | .ctrClear => [0x31]
  | .reservedOp op rest => op :: rest
  | .buildSabm src dest path => 0x13 :: (routeFields src dest path ++ [0x2F])
  | .buildUa src dest path => 0x13 :: (routeFields src dest path ++ [0x63])
  | .buildDisc src dest path => 0x13 :: (routeFields src dest path ++ [0x43])
  | .buildDm src dest path => 0x13 :: (routeFields src dest path ++ [0x0F])
  | .kissData port payload => 0x01 :: typeByte port 0 :: bytes16Field payload
  | .rxHuntFend => [0xC0]
  | .rxHuntOther b => [b]
  | .rxFrameFend => [0xC0]
  | .rxFrameFesc => [0xDB]
  | .rxFrameOther b => [b]
  | .rxEscTfend => [0xDC]
  | .rxEscTfesc => [0xDD]
  | .rxEscOther b => [b]
  | .kissTypeData port => [typeByte port 0]
  | .kissTypeTxdelay port => [typeByte port 1]
  | .kissTypeNondata port cmd => [typeByte port cmd]
  | .ctlUi => [0x03]
  | .ctlSabm => [0x2F]
  | .ctlUa => [0x63]
  | .ctlDisc => [0x43]
  | .ctlDm => [0x0F]
  | .ctlI ns nr bit4 => [ctlByte nr bit4 (ns ++ (0 : BitVec 1))]
  | .ctlRr nr bit4 => [ctlByte nr bit4 0x1]
  | .ctlRnr nr bit4 => [ctlByte nr bit4 0x5]
  | .ctlRej nr bit4 => [ctlByte nr bit4 0x9]
  | .ctlSUnknown nr bit4 => [ctlByte nr bit4 0xD]
  | .ctlOther ctrl => [ctrl]
  | .pidNoL3 => [0xF0]
  | .addrUnit unit => unit.bytes

/-! ### Pseudo-operations (R88) -/

/-- The operation a pseudo-operation is another spelling of; every other instruction is itself. -/
def Instr.expand : Instr → Instr
  | .buildSabm src dest path => .buildU src dest path 0x2F
  | .buildUa src dest path => .buildU src dest path 0x63
  | .buildDisc src dest path => .buildU src dest path 0x43
  | .buildDm src dest path => .buildU src dest path 0x0F
  | .kissData port payload => .kissSend (typeByte port 0) payload
  | i => i

/-! ### One word of the opcode table (log entry 7)

A row's word does not say which port reads it. A word whose byte is an OP of R82 is a command record; one of the four KISS
special bytes is a byte of the RX line, in the unframer state of the first row that names it; a control byte that a row
names and that is no OP is read by the classifier; any other word is a command record with a reserved OP. -/

/-- How a word of the table reaches the block. -/
inductive TableWord where
  | record (bytes : List Byte)
  | rx (mode : RxMode) (esc : Bool) (b : Byte)
  | control (c : Byte)
deriving DecidableEq, Repr

/-- The first `k` bytes of a word, bit 0 the least significant bit of the first byte. -/
def wordBytes : Nat → Nat → List Byte
  | 0, _ => []
  | k + 1, w => byteOf w :: wordBytes k (w / 256)

/-- A record with operand bytes of zero added until it decodes, at most `fuel` of them. -/
def zeroExtended : Nat → List Byte → List Byte
  | 0, r => r
  | fuel + 1, r =>
    match decodeRecord r with
    | .ok _ => r
    | .error _ => zeroExtended fuel (r ++ [0])

/-- The control bytes the table names by a row of their own, less those that are OP values. -/
def controlWords : List Byte := [0x2F, 0x63, 0x43, 0x0F, 0x09, 0x0D]

/-- Where a word of the table is read. -/
def readTableWord (nbits w : Nat) : TableWord :=
  let bytes := wordBytes ((nbits + 7) / 8) w
  match bytes with
  | [b] =>
    if (opOfByte b).isSome then .record (zeroExtended 16 bytes)
    else if b = fend then .rx .hunt false b
    else if b = fesc then .rx .frame false b
    else if b = tfend then .rx .frame true b
    else if b = tfesc then .rx .frame true b
    else if controlWords.contains b then .control b
    else .record bytes
  | _ => .record (zeroExtended 16 bytes)

/-- The instruction the decoder reads from a word of the table. -/
def decodeTableWord (nbits w : Nat) : Option Instr :=
  match readTableWord nbits w with
  | .record bytes => (decodeRecord bytes).toOption
  | .rx mode esc b => some (decodeRx mode esc b)
  | .control c => some (decodeCtl c)

end Sys2Proof
end

