-- ==== Sys2Proof/Machine/State.lean ====
section
/-! DEFINITION. The state of the block as plain data (10_state.md R22), its reset (R34), and the outcome types of a step. -/

namespace Sys2Proof.Machine

/-- The result codes of 30_encoding.md R96; no other code is ever produced. -/
inductive ResultCode where
  | ok
  | fault (f : FaultCode)
  | parseNull
  | fcsBad
deriving DecidableEq, Repr

/-- A result record: a code and its data (R95). -/
structure ResultRecord where
  code : ResultCode
  data : List Byte
deriving DecidableEq, Repr

/-- A frame on the RX frame port: the port nibble and the payload (R28). -/
structure RxFrame where
  port : Nibble
  payload : List Byte
deriving DecidableEq, Repr

/-- The counter file (R23): five 16-bit counters, under their names. -/
structure Counters where
  rxData : Word16
  rxNondata : Word16
  rxOverrun : Word16
  parseNull : Word16
  fcsBad : Word16
deriving DecidableEq, Repr

/-- One step of one of the two agents of R241: the host issues a command record, or the RX line delivers a byte. -/
inductive Input where
  | command (record : List Byte)
  | rxByte (b : Byte)
deriving DecidableEq, Repr

/-- The state: the eight fields of R22, the parameters of R7, and the agents' steps still to come. -/
structure State where
  /-- The parameters the block is built with (R7, R31). -/
  cfg : Config
  /-- Whether the unframer has seen a FEND since reset or LINE_RESET (R25). -/
  rxMode : RxMode
  /-- A FESC was the last byte received inside the current frame (R25). -/
  rxEsc : Bool
  /-- Unescaped bytes of the current frame so far, type byte included (R25, R26). -/
  rxBuf : List Byte
  /-- The current frame exceeded `RX_MAX` and will be discarded (R25). -/
  rxOvf : Bool
  /-- The status counters (R23). -/
  ctr : Counters
  /-- Every byte sent on the TX line, in order (R27). -/
  txLine : List Byte
  /-- Every frame the unframer has delivered, in order (R28). -/
  rxOut : List RxFrame
  /-- The result of every command, in issue order (R29). -/
  results : List ResultRecord
  /-- The agents' steps still to come, in the order of the run (20_memory.md R58; the model's own field, log entry 1). -/
  inputs : List Input
deriving DecidableEq, Repr

/-- Why a step stops the machine. The block has no such reason: every command completes (R240), a refused command is a
result record (R231), and every RX byte is accepted in every state (R130, R233). So the type has no constructor, which is
safe: the model never stops where the hardware goes on. -/
inductive Fault where
deriving DecidableEq, Repr

/-- Why a step refuses an instruction. -/
inductive Refusal where
  /-- Raised by an arm of `exec` that has no meaning yet, under the table's mnemonic. No arm raises it now. Safe: the
  model would stop where the block goes on. -/
  | notModelled (mnemonic : String)
deriving DecidableEq, Repr

/-- All five counters 0. -/
def Counters.zero : Counters := ⟨0, 0, 0, 0, 0⟩

/-- The block right after reset, built with the parameters `cfg` (R34, R260, R262). -/
def State.resetWith (cfg : Config) : State :=
  { cfg := cfg
    rxMode := .hunt
    rxEsc := false
    rxBuf := []
    rxOvf := false
    ctr := .zero
    txLine := []
    rxOut := []
    results := []
    inputs := [] }

/-- The block right after reset, with the reference parameters of R7. -/
def State.reset : State := .resetWith .reference

end Sys2Proof.Machine
end

