-- ==== Sys2Proof/Machine/Flags.lean ====
section
/-! DEFINITION. The block's status: result code bytes (30_encoding.md R96) and the status counters (10_state.md R23, R24). The
block has no condition codes (R30); its two one-bit states, rxEsc and rxOvf, are written by the unframer (Machine/Kiss.lean). -/

namespace Sys2Proof.Machine

/-- The byte of a fault code (R96, R230). -/
def faultByte : FaultCode → Byte
  | .illegalOp => 0x01
  | .badOperand => 0x02
  | .badSsid => 0x03
  | .badChar => 0x04
  | .pathTooLong => 0x05
  | .badSeq => 0x06
  | .badCtr => 0x07

/-- The byte of a result code (R96). -/
def ResultCode.byte : ResultCode → Byte
  | .ok => 0x00
  | .fault f => faultByte f
  | .parseNull => 0x10
  | .fcsBad => 0x11

/-- A result record as the bytes on the result port: the code, then the data (R95). -/
def ResultRecord.bytes (r : ResultRecord) : List Byte := r.code.byte :: r.data

/-- The value of a counter. -/
def Counters.get (c : Counters) : CtrId → Word16
  | .rxData => c.rxData
  | .rxNondata => c.rxNondata
  | .rxOverrun => c.rxOverrun
  | .parseNull => c.parseNull
  | .fcsBad => c.fcsBad

/-- One counter plus 1 modulo 2^16, the others kept (R24). -/
def Counters.inc (c : Counters) : CtrId → Counters
  | .rxData => { c with rxData := c.rxData + 1 }
  | .rxNondata => { c with rxNondata := c.rxNondata + 1 }
  | .rxOverrun => { c with rxOverrun := c.rxOverrun + 1 }
  | .parseNull => { c with parseNull := c.parseNull + 1 }
  | .fcsBad => { c with fcsBad := c.fcsBad + 1 }

/-- `ctr_inc(n)` (R11, R24). -/
def ctrInc (n : CtrId) (s : State) : State := { s with ctr := s.ctr.inc n }

end Sys2Proof.Machine
end

