-- ==== Sys2Proof/Machine/Operands.lean ====
section
/-! DEFINITION. Operand and result layouts of the machine's side: a decoded address (30_encoding.md R98), a counted byte
sequence (R97), and the 16-bit values of results (R97). The operand fields of a record are read in Decode.lean. -/

namespace Sys2Proof.Machine

/-- `u16` of a 16-bit value, big-endian in a result record (R52, R97). -/
def word16Bytes (w : Word16) : List Byte := [w.extractLsb' 8 8, w.extractLsb' 0 8]

/-- `u32 L`, then L bytes (R97). -/
def countedBytes (data : List Byte) : List Byte := u32Bytes data.length ++ data

/-- What the decoder reads from an address unit (R180). -/
structure DecodedAddr where
  callsign : List Byte
  ssid : Nibble
  last : Bool
  crh : Bits3
deriving DecidableEq, Repr

/-- `daddr`: u8 n, n callsign bytes, u8 ssid, u8 last, u8 crh (R98). -/
def DecodedAddr.bytes (a : DecodedAddr) : List Byte :=
  byteOf a.callsign.length :: (a.callsign ++ [a.ssid.setWidth 8, if a.last then 1 else 0, a.crh.setWidth 8])

end Sys2Proof.Machine
end

