-- ==== Sys2Proof/Machine/Ops.lean ====
section
/-! DEFINITION. The shared operations on the ports (00_scope.md R11): completing a command, raising a fault, emitting on the
TX line, delivering on the RX frame port; reset as an event; and what the next input of a state decodes to. The block has no
memory and no register file (20_memory.md R50, 10_state.md R20), so there is no load, store or register operation. -/

namespace Sys2Proof.Machine

/-- Appends one result record (R29, R95). -/
def complete (r : ResultRecord) (s : State) : State := { s with results := s.results ++ [r] }

/-- `result(OK, data)` (R11). -/
def completeOk (data : List Byte) (s : State) : State := complete ⟨.ok, data⟩ s

/-- `raise Fault(kind)`: the block's whole exception entry. The fault record is appended and nothing else changes
(60_exceptions.md R231); there is no handler, no saved state and no mode (R237), and so no return from one (R238). -/
def raiseFault (f : FaultCode) (s : State) : State := complete ⟨.fault f, []⟩ s

/-- `emit(bytes)`: one contiguous append to the TX line (R27, R55). -/
def emit (bytes : List Byte) (s : State) : State := { s with txLine := s.txLine ++ bytes }

/-- `deliver(port, payload)` (R28). -/
def deliver (port : Nibble) (payload : List Byte) (s : State) : State := { s with rxOut := s.rxOut ++ [⟨port, payload⟩] }

/-- The unframer fields at their reset values (R34, R133). -/
def lineReset (s : State) : State := { s with rxMode := .hunt, rxEsc := false, rxBuf := [], rxOvf := false }

/-- Reset as an event of a state: every field of R22 at its reset value; the parameters (R262) and the agents' steps to come
are not the block's to change. -/
def applyReset (s : State) : State := { State.resetWith s.cfg with inputs := s.inputs }

/-- The instruction an input is, in a state: a command record is decoded by R82, an RX byte by the unframer state (R130). -/
def decodeInput (s : State) : Input → Except FaultCode Instr
  | .command record => decodeRecord record
  | .rxByte b => .ok (decodeRx s.rxMode s.rxEsc b)

/-- What happens when nothing is left to do: the block holds its state (R247). -/
def idle (s : State) : State := s

end Sys2Proof.Machine
end

