-- ==== Sys2Proof/Machine/Decoder.lean ====
section
/-! DEFINITION. The AX.25 frame decoder (42_ax25_decoder.md): address unpacking, the frame parse, the control-field
classifier, the FCS checker, and the table's control, PID and address rows. PARSE alone writes state besides `results`, and
only its two counters (10_state.md R32). -/

namespace Sys2Proof.Machine

/-! ### Address unpacking (R180) -/

/-- A sequence without its trailing 0x20 bytes. -/
def stripSpaces (bytes : List Byte) : List Byte := (bytes.reverse.dropWhile (· == 0x20)).reverse

/-- `dec_addr(u)` (R180). -/
def decAddr (u : AddrUnit) : DecodedAddr :=
  { callsign := stripSpaces [u.c0 >>> 1, u.c1 >>> 1, u.c2 >>> 1, u.c3 >>> 1, u.c4 >>> 1, u.c5 >>> 1]
    ssid := u.ssidByte.extractLsb' 1 4
    last := u.ssidByte.getLsbD 0
    crh := u.ssidByte.extractLsb' 5 3 }

/-! ### The FCS (R200 to R202) -/

/-- One bit of the CRC register (R200). -/
def crcBit (r : Word16) : Word16 := if r.getLsbD 0 then (r >>> 1) ^^^ 0x8408 else r >>> 1

/-- Eight bits. -/
def crcShift8 (r : Word16) : Word16 := crcBit (crcBit (crcBit (crcBit (crcBit (crcBit (crcBit (crcBit r)))))))

/-- The register after one byte. -/
def crcByte (r : Word16) (b : Byte) : Word16 := crcShift8 (r ^^^ b.setWidth 16)

/-- The register after a byte sequence, from the initial value 0xFFFF. -/
def crcRegister (bytes : List Byte) : Word16 := bytes.foldl crcByte 0xFFFF

/-- `crc16_x25(s)` (R200). -/
def crc16X25 (bytes : List Byte) : Word16 := crcRegister bytes ^^^ 0xFFFF

/-- All bytes but the last two: what the FCS is computed over (R202). -/
def fcsBody (bytes : List Byte) : List Byte := bytes.take (bytes.length - 2)

/-- An FCS on the wire, least significant byte first (R201). -/
def fcsWire (fcs : Word16) : List Byte := [fcs.extractLsb' 0 8, fcs.extractLsb' 8 8]

/-- `fcs_ok(f)` (R202). -/
def fcsOk (bytes : List Byte) : Bool :=
  2 ≤ bytes.length && bytes.drop (bytes.length - 2) == fcsWire (crc16X25 (fcsBody bytes))

/-! ### Frame parse (R190) -/

/-- A parsed frame; `pid` is none when the frame has no PID byte. -/
structure ParsedFrame where
  dest : DecodedAddr
  src : DecodedAddr
  path : List DecodedAddr
  ctrl : Byte
  pid : Option Byte
  info : List Byte
deriving DecidableEq, Repr

/-- The three answers of `parse` (R190). -/
inductive ParseAnswer where
  | null
  | fcsBad
  | frame (f : ParsedFrame)
deriving DecidableEq, Repr

/-- Walks 7-byte units up to the first with its last bit set: the addresses and the bytes after them; none when the buffer
is exhausted first. There is no cap on the number of units (D24). -/
def walkUnits : List Byte → Option (List DecodedAddr × List Byte)
  | c0 :: c1 :: c2 :: c3 :: c4 :: c5 :: b6 :: rest =>
    let a := decAddr ⟨c0, c1, c2, c3, c4, c5, b6⟩
    if a.last then some ([a], rest)
    else
      match walkUnits rest with
      | some (more, rest) => some (a :: more, rest)
      | none => none
  | _ => none

/-- Whether a PID byte follows a control byte: UI by its exact value, or bit 0 clear (R79). -/
def pidFollows (ctrl : Byte) : Bool := ctrl == 0x03 || !ctrl.getLsbD 0

/-- The parse after the FCS step: addresses, control, PID where one follows, info (R190). -/
def parseBody (f : List Byte) : Option ParsedFrame :=
  match walkUnits f with
  | some (dest :: src :: path, ctrl :: rest) =>
    if pidFollows ctrl then
      match rest with
      | pid :: info => some ⟨dest, src, path, ctrl, some pid, info⟩
      | [] => none
    else some ⟨dest, src, path, ctrl, none, rest⟩
  | _ => none

/-- `parse(f)` (R190): with `FCS_MODE = CRC16_X25` the FCS is checked and stripped before any address is walked (R234). -/
def parseFrame (mode : FcsMode) (f : List Byte) : ParseAnswer :=
  match mode with
  | .none =>
    match parseBody f with
    | some p => .frame p
    | none => .null
  | .crc16X25 =>
    if fcsOk f then
      match parseBody (fcsBody f) with
      | some p => .frame p
      | none => .null
    else .fcsBad

/-- The result layout of PARSE (R97): dest, src, u16 k, path, ctrl, pidPresent, pid (0x00 when absent), u32 L, info. -/
def ParsedFrame.bytes (p : ParsedFrame) : List Byte :=
  p.dest.bytes ++ p.src.bytes ++ u16Bytes p.path.length ++ p.path.flatMap DecodedAddr.bytes ++
    [p.ctrl, if p.pid.isSome then 1 else 0, p.pid.getD 0] ++ countedBytes p.info

/-! ### Control-field classifier (R195, R99) -/

/-- The classes of R99. -/
inductive ControlClass where
  | ui
  | sabm
  | ua
  | disc
  | dm
  | i
  | rr
  | rnr
  | rej
  | sUnknown
  | other
deriving DecidableEq, Repr

/-- The class number (R99). -/
def ControlClass.number : ControlClass → Byte
  | .ui => 0
  | .sabm => 1
  | .ua => 2
  | .disc => 3
  | .dm => 4
  | .i => 5
  | .rr => 6
  | .rnr => 7
  | .rej => 8
  | .sUnknown => 9
  | .other => 10

/-- The ASCII code of an uppercase hex digit. -/
def hexDigit (n : Nibble) : Byte := if n.toNat < 10 then byteOf (48 + n.toNat) else byteOf (55 + n.toNat)

/-- The label of class OTHER: `CTL=0x` and two uppercase hex digits of the control byte (R99, 90_conflicts.md C3). -/
def otherLabel (ctrl : Byte) : List Byte :=
  [0x43, 0x54, 0x4C, 0x3D, 0x30, 0x78, hexDigit (ctrl.extractLsb' 4 4), hexDigit (ctrl.extractLsb' 0 4)]

/-- The label bytes of a class (R99): UI, SABM, UA, DISC, DM, I, RR, RNR, REJ, unknown, and the hex label. -/
def classLabel (k : ControlClass) (ctrl : Byte) : List Byte :=
  match k with
  | .ui => [0x55, 0x49]
  | .sabm => [0x53, 0x41, 0x42, 0x4D]
  | .ua => [0x55, 0x41]
  | .disc => [0x44, 0x49, 0x53, 0x43]
  | .dm => [0x44, 0x4D]
  | .i => [0x49]
  | .rr => [0x52, 0x52]
  | .rnr => [0x52, 0x4E, 0x52]
  | .rej => [0x52, 0x45, 0x4A]
  | .sUnknown => [0x75, 0x6E, 0x6B, 0x6E, 0x6F, 0x77, 0x6E]
  | .other => otherLabel ctrl

/-- What the classifier reads from a control byte. -/
structure Classification where
  cls : ControlClass
  ns : Bits3
  nr : Bits3
deriving DecidableEq, Repr

/-- The class of an S control byte by its bits 3:2 (R195). -/
def sClass (c : Byte) : ControlClass :=
  if c.extractLsb' 2 2 = 0#2 then .rr
  else if c.extractLsb' 2 2 = 1#2 then .rnr
  else if c.extractLsb' 2 2 = 2#2 then .rej
  else .sUnknown

/-- `classify(c)` (R195). -/
def classify (c : Byte) : Classification :=
  if c = 0x03 then ⟨.ui, 0, 0⟩
  else if c = 0x2F then ⟨.sabm, 0, 0⟩
  else if c = 0x63 then ⟨.ua, 0, 0⟩
  else if c = 0x43 then ⟨.disc, 0, 0⟩
  else if c = 0x0F then ⟨.dm, 0, 0⟩
  else if c.getLsbD 0 = false then ⟨.i, c.extractLsb' 1 3, c.extractLsb' 5 3⟩
  else if c.extractLsb' 0 2 = 1#2 then ⟨sClass c, 0, c.extractLsb' 5 3⟩
  else ⟨.other, 0, 0⟩

/-- The data of a CLASSIFY result: class, ns, nr, label length, label (R97). -/
def Classification.bytes (k : Classification) (ctrl : Byte) : List Byte :=
  k.cls.number :: k.ns.setWidth 8 :: k.nr.setWidth 8 :: byteOf (classLabel k.cls ctrl).length :: classLabel k.cls ctrl

/-! ### Commands -/

/-- DEC_ADDR (R181). -/
def execDecAddr (unit : AddrUnit) (s : State) : Host.Outcome State Fault Refusal :=
  .next (completeOk (decAddr unit).bytes s)

/-- PARSE (R190): `PARSE_NULL` and `FCS_BAD` are outcomes that count, not faults (R232). -/
def execParse (frame : List Byte) (s : State) : Host.Outcome State Fault Refusal :=
  match parseFrame s.cfg.fcsMode frame with
  | .null => .next (complete ⟨.parseNull, []⟩ (ctrInc .parseNull s))
  | .fcsBad => .next (complete ⟨.fcsBad, []⟩ (ctrInc .fcsBad s))
  | .frame p => .next (completeOk p.bytes s)

/-- CLASSIFY (R195). -/
def execClassify (ctrl : Byte) (s : State) : Host.Outcome State Fault Refusal :=
  .next (completeOk ((classify ctrl).bytes ctrl) s)

/-- FCS_CALC (R204), whatever `FCS_MODE` is. -/
def execFcsCalc (data : List Byte) (s : State) : Host.Outcome State Fault Refusal :=
  .next (completeOk (word16Bytes (crc16X25 data)) s)

/-- FCS_CHECK (R205), whatever `FCS_MODE` is; no counter changes. -/
def execFcsCheck (data : List Byte) (s : State) : Host.Outcome State Fault Refusal :=
  if data.length < 2 then .next (completeOk [0, 0, 0] s)
  else .next (completeOk ((if fcsOk data then 1 else 0) :: word16Bytes (crc16X25 (fcsBody data))) s)

/-! ### The AX25_CTL rows: the classification of a control byte of the row (log entry 2) -/

/-- The effect of classifying a control byte: its class data as a result (R195). -/
def classified (k : Classification) (ctrl : Byte) (s : State) : Host.Outcome State Fault Refusal :=
  .next (completeOk (k.bytes ctrl) s)

/-- CTL_UI. -/
def execCtlUi (s : State) : Host.Outcome State Fault Refusal := classified ⟨.ui, 0, 0⟩ 0x03 s

/-- CTL_SABM. -/
def execCtlSabm (s : State) : Host.Outcome State Fault Refusal := classified ⟨.sabm, 0, 0⟩ 0x2F s

/-- CTL_UA. -/
def execCtlUa (s : State) : Host.Outcome State Fault Refusal := classified ⟨.ua, 0, 0⟩ 0x63 s

/-- CTL_DISC. -/
def execCtlDisc (s : State) : Host.Outcome State Fault Refusal := classified ⟨.disc, 0, 0⟩ 0x43 s

/-- CTL_DM. -/
def execCtlDm (s : State) : Host.Outcome State Fault Refusal := classified ⟨.dm, 0, 0⟩ 0x0F s

/-- CTL_I: N(S) and N(R); bit 4 is not decoded. -/
def execCtlI (ns nr : Bits3) (bit4 : Bool) (s : State) : Host.Outcome State Fault Refusal :=
  classified ⟨.i, ns, nr⟩ (ctlByte nr bit4 (ns ++ (0 : BitVec 1))) s

/-- CTL_RR. -/
def execCtlRr (nr : Bits3) (bit4 : Bool) (s : State) : Host.Outcome State Fault Refusal :=
  classified ⟨.rr, 0, nr⟩ (ctlByte nr bit4 0x1) s

/-- CTL_RNR. -/
def execCtlRnr (nr : Bits3) (bit4 : Bool) (s : State) : Host.Outcome State Fault Refusal :=
  classified ⟨.rnr, 0, nr⟩ (ctlByte nr bit4 0x5) s

/-- CTL_REJ. -/
def execCtlRej (nr : Bits3) (bit4 : Bool) (s : State) : Host.Outcome State Fault Refusal :=
  classified ⟨.rej, 0, nr⟩ (ctlByte nr bit4 0x9) s

/-- CTL_S_UNKNOWN. -/
def execCtlSUnknown (nr : Bits3) (bit4 : Bool) (s : State) : Host.Outcome State Fault Refusal :=
  classified ⟨.sUnknown, 0, nr⟩ (ctlByte nr bit4 0xD) s

/-- CTL_OTHER. -/
def execCtlOther (ctrl : Byte) (s : State) : Host.Outcome State Fault Refusal := classified ⟨.other, 0, 0⟩ ctrl s

/-! ### The PID and address rows (log entry 2) -/

/-- PID_NO_L3: the PID byte is written by the builders and reported by PARSE, and is checked by nothing (R78); by itself it
has no effect on the state. -/
def execPidNoL3 (s : State) : Host.Outcome State Fault Refusal := .next s

/-- ADDR_UNIT: an address unit handed to the decoder is unpacked and reported (R74, R180). -/
def execAddrUnit (unit : AddrUnit) (s : State) : Host.Outcome State Fault Refusal :=
  .next (completeOk (decAddr unit).bytes s)

end Sys2Proof.Machine
end

