-- ==== Sys2Proof/Machine/Encoder.lean ====
section
/-! DEFINITION. The AX.25 frame encoder (41_ax25_encoder.md): address packing, the header, the UI, U and I frame builders and
the pseudo-operations over BUILD_U. No operation here writes any state but `results` (10_state.md R32), and none appends an
FCS (R160). -/

namespace Sys2Proof.Machine

/-- `pad6(call)`: the callsign cut or space-padded to 6 bytes (R150). -/
def pad6 (callsign : List Byte) : List Byte := (callsign ++ List.replicate 6 0x20).take 6

/-- The SSID byte: `0x60 | (ssid << 1) | last` (R85, R151). -/
def ssidByte (ssid : Nibble) (last : Bool) : Byte := 0x60 ||| (ssid.setWidth 8 <<< 1) ||| (if last then 1 else 0)

/-- A callsign character as the wire carries it: `(c << 1) & 0xFF` (R85). -/
def shiftChar (c : Byte) : Byte := c <<< 1

/-- `enc_addr(call, ssid, last)` (R151). -/
def encAddr (a : Addr) (last : Bool) : List Byte := (pad6 a.callsign).map shiftChar ++ [ssidByte a.ssid last]

/-- Address units in order, the last bit on the final one only (R75, R152). -/
def encAddrs : List Addr → List Byte
  | [] => []
  | [a] => encAddr a true
  | a :: more => encAddr a false ++ encAddrs more

/-- `hdr(src, dest, path)`: destination, source, then the path (R152). -/
def hdr (src dest : Addr) (path : List Addr) : List Byte := encAddrs (dest :: src :: path)

/-- The control byte of a UI frame (R76, R77). -/
def ctrlUi : Byte := 0x03

/-- The PID byte the encoder writes (R78). -/
def pidNoLayer3 : Byte := 0xF0

/-- The control byte of an I frame: `(ns << 1) | (nr << 5)` (R77, R158). -/
def ctrlI (ns nr : Bits3) : Byte := (ns.setWidth 8 <<< 1) ||| (nr.setWidth 8 <<< 5)

/-- A UI frame (R76, R155). -/
def uiFrame (src dest : Addr) (path : List Addr) (info : List Byte) : List Byte :=
  hdr src dest path ++ ctrlUi :: pidNoLayer3 :: info

/-- A U frame (R76, R156). -/
def uFrame (src dest : Addr) (path : List Addr) (ctrl : Byte) : List Byte := hdr src dest path ++ [ctrl]

/-- An I frame (R76, R158). -/
def iFrame (src dest : Addr) (path : List Addr) (ns nr : Bits3) (info : List Byte) : List Byte :=
  hdr src dest path ++ ctrlI ns nr :: pidNoLayer3 :: info

/-- ENC_ADDR (R151). -/
def execEncAddr (a : Addr) (last : Bool) (s : State) : Host.Outcome State Fault Refusal :=
  .next (completeOk (countedBytes (encAddr a last)) s)

/-- BUILD_HEADER (R153). -/
def execBuildHeader (src dest : Addr) (path : List Addr) (s : State) : Host.Outcome State Fault Refusal :=
  .next (completeOk (countedBytes (hdr src dest path)) s)

/-- BUILD_UI (R155). -/
def execBuildUi (src dest : Addr) (path : List Addr) (info : List Byte) (s : State) : Host.Outcome State Fault Refusal :=
  .next (completeOk (countedBytes (uiFrame src dest path info)) s)

/-- BUILD_U (R156): any control byte is taken as it is (R157). -/
def execBuildU (src dest : Addr) (path : List Addr) (ctrl : Byte) (s : State) : Host.Outcome State Fault Refusal :=
  .next (completeOk (countedBytes (uFrame src dest path ctrl)) s)

/-- BUILD_I (R158). -/
def execBuildI (src dest : Addr) (path : List Addr) (ns nr : Bits3) (info : List Byte) (s : State) :
    Host.Outcome State Fault Refusal :=
  .next (completeOk (countedBytes (iFrame src dest path ns nr info)) s)

/-- BUILD_SABM: BUILD_U with control 0x2F (R88). -/
def execBuildSabm (src dest : Addr) (path : List Addr) (s : State) : Host.Outcome State Fault Refusal :=
  execBuildU src dest path 0x2F s

/-- BUILD_UA: BUILD_U with control 0x63 (R88). -/
def execBuildUa (src dest : Addr) (path : List Addr) (s : State) : Host.Outcome State Fault Refusal :=
  execBuildU src dest path 0x63 s

/-- BUILD_DISC: BUILD_U with control 0x43 (R88). -/
def execBuildDisc (src dest : Addr) (path : List Addr) (s : State) : Host.Outcome State Fault Refusal :=
  execBuildU src dest path 0x43 s

/-- BUILD_DM: BUILD_U with control 0x0F (R88). -/
def execBuildDm (src dest : Addr) (path : List Addr) (s : State) : Host.Outcome State Fault Refusal :=
  execBuildU src dest path 0x0F s

end Sys2Proof.Machine
end

