-- ==== Sys2Proof/Machine/Kiss.lean ====
section
/-! DEFINITION. The KISS unit (40_kiss.md): escape and unescape, the framer's commands, the unframer's RX_BYTE step with its
table rows, and the type-byte rows of close_frame. -/

namespace Sys2Proof.Machine

/-! ### Primitive functions -/

/-- The line bytes of one payload byte (R73). -/
def escapeByte (b : Byte) : List Byte :=
  if b = fend then [fesc, tfend] else if b = fesc then [fesc, tfesc] else [b]

/-- `escape` (R120). -/
def escape : List Byte → List Byte
  | [] => []
  | b :: rest => escapeByte b ++ escape rest

/-- `unesc_step` (R121): the new escape flag and the bytes produced. -/
def unescStep (policy : BadEsc) (esc : Bool) (b : Byte) : Bool × List Byte :=
  if esc then
    if b = tfend then (false, [fend])
    else if b = tfesc then (false, [fesc])
    else
      match policy with
      | .pass => (false, [b])
      | .drop => (false, [])
      | .keep => (false, [fesc, b])
  else if b = fesc then (true, [])
  else (false, [b])

/-- The unescaping of a sequence from an escape flag on; a flag pending at the end is dropped (R121). -/
def unescapeFrom (policy : BadEsc) : Bool → List Byte → List Byte
  | _, [] => []
  | esc, b :: rest =>
    let r := unescStep policy esc b
    r.2 ++ unescapeFrom policy r.1 rest

/-- `unescape` (R121). -/
def unescape (policy : BadEsc) (bytes : List Byte) : List Byte := unescapeFrom policy false bytes

/-- A KISS frame: FEND, the type byte as it is, the escaped payload, FEND (R71). -/
def kissFrame (type : Byte) (payload : List Byte) : List Byte := fend :: type :: (escape payload ++ [fend])

/-- `clamp(v, lo, hi)` (R11). -/
def clampInt (v lo hi : Int) : Int := min (max v lo) hi

/-- The TXDELAY value: `clamp(trunc_div(ms, 10), 0, 255)` (R85, R125). -/
def txdelayValue (ms : Word32) : Byte := byteOf (clampInt (ms.toInt.tdiv 10) 0 255).toNat

/-! ### Commands -/

/-- KISS_SEND (R124). -/
def execKissSend (type : Byte) (payload : List Byte) (s : State) : Host.Outcome State Fault Refusal :=
  .next (completeOk [] (emit (kissFrame type payload) s))

/-- KISS_SET_TXDELAY (R125): a one-byte TXDELAY frame (cmd 1) on port `TXD_PORT`. -/
def execKissSetTxdelay (ms : Word32) (s : State) : Host.Outcome State Fault Refusal :=
  .next (completeOk [] (emit (kissFrame (typeByte s.cfg.txdPort 1) [txdelayValue ms]) s))

/-- KISS_ESCAPE (R122). -/
def execKissEscape (data : List Byte) (s : State) : Host.Outcome State Fault Refusal :=
  .next (completeOk (countedBytes (escape data)) s)

/-- KISS_UNESCAPE (R123); `rxEsc` is not touched. -/
def execKissUnescape (data : List Byte) (s : State) : Host.Outcome State Fault Refusal :=
  .next (completeOk (countedBytes (unescape s.cfg.badEsc data)) s)

/-- LINE_RESET (R133). -/
def execLineReset (s : State) : Host.Outcome State Fault Refusal :=
  .next (completeOk [] (lineReset s))

/-- KISS_DATA: KISS_SEND of a data frame (cmd 0) on a port (R88). -/
def execKissData (port : Nibble) (payload : List Byte) (s : State) : Host.Outcome State Fault Refusal :=
  execKissSend (typeByte port 0) payload s

/-! ### The unframer (R130 to R132) -/

/-- `put(v)` (R131): appends, or marks overrun and drops the byte when the buffer is full. -/
def put (v : Byte) (s : State) : State :=
  if s.rxBuf.length < s.cfg.rxMax then { s with rxBuf := s.rxBuf ++ [v] } else { s with rxOvf := true }

/-- `put` of each byte in order. -/
def putAll : List Byte → State → State
  | [], s => s
  | v :: rest, s => putAll rest (put v s)

/-- The effect of a completed frame of command 0: delivered and counted (R132). -/
def closeData (port : Nibble) (payload : List Byte) (s : State) : State := ctrInc .rxData (deliver port payload s)

/-- The effect of a completed frame of another command: consumed, ignored and counted (R132). -/
def closeNondata (s : State) : State := ctrInc .rxNondata s

/-- `close_frame()` (R132). -/
def closeFrame (s : State) : State :=
  if s.rxOvf then ctrInc .rxOverrun s
  else
    match s.rxBuf with
    | [] => s
    | t :: payload => if typeCmd t = 0 then closeData (typePort t) payload s else closeNondata s

/-- A new interval begins: nothing buffered, no escape pending, no overrun (R130). -/
def openFrame (s : State) : State := { s with rxMode := .frame, rxBuf := [], rxEsc := false, rxOvf := false }

/-- `RX_BYTE(b)` (R130). -/
def rxByte (b : Byte) (s : State) : State :=
  match s.rxMode with
  | .hunt => if b = fend then openFrame s else s
  | .frame =>
    if b = fend then openFrame (closeFrame s)
    else
      let r := unescStep s.cfg.badEsc s.rxEsc b
      putAll r.2 { s with rxEsc := r.1 }

/-! ### The KISS_RX rows

Each row is RX_BYTE of its byte. A row is what a byte decodes to in the unframer state the row names (`decodeRx`), and its
effect in that state is the row's note; in any other state the byte still has the effect R130 gives it there. -/

/-- RX_HUNT_FEND: state HUNT, 0xC0: enter FRAME. -/
def execRxHuntFend (s : State) : Host.Outcome State Fault Refusal := .next (rxByte fend s)

/-- RX_HUNT_OTHER: state HUNT, any byte but 0xC0: discarded. -/
def execRxHuntOther (b : Byte) (s : State) : Host.Outcome State Fault Refusal := .next (rxByte b s)

/-- RX_FRAME_FEND: state FRAME, 0xC0: close_frame, then the next interval opens. -/
def execRxFrameFend (s : State) : Host.Outcome State Fault Refusal := .next (rxByte fend s)

/-- RX_FRAME_FESC: state FRAME, rxEsc = 0, 0xDB: set rxEsc. -/
def execRxFrameFesc (s : State) : Host.Outcome State Fault Refusal := .next (rxByte fesc s)

/-- RX_FRAME_OTHER: state FRAME, rxEsc = 0, any other byte: put(b). -/
def execRxFrameOther (b : Byte) (s : State) : Host.Outcome State Fault Refusal := .next (rxByte b s)

/-- RX_ESC_TFEND: state FRAME, rxEsc = 1, 0xDC: put(0xC0). -/
def execRxEscTfend (s : State) : Host.Outcome State Fault Refusal := .next (rxByte tfend s)

/-- RX_ESC_TFESC: state FRAME, rxEsc = 1, 0xDD: put(0xDB). -/
def execRxEscTfesc (s : State) : Host.Outcome State Fault Refusal := .next (rxByte tfesc s)

/-- RX_ESC_OTHER: state FRAME, rxEsc = 1, any other byte but 0xC0: the BAD_ESC policy. -/
def execRxEscOther (b : Byte) (s : State) : Host.Outcome State Fault Refusal := .next (rxByte b s)

/-! ### The KISS_TYPE rows

What a type byte makes of the interval that `close_frame` completes (R132): the buffer holds the type byte and the payload
behind it (log entry 2). -/

/-- KISS_TYPE_DATA: delivered as (port, payload); counted RX_DATA. -/
def execKissTypeData (port : Nibble) (s : State) : Host.Outcome State Fault Refusal :=
  .next (closeData port (s.rxBuf.drop 1) s)

/-- KISS_TYPE_TXDELAY: on receive consumed and counted RX_NONDATA (R72). -/
def execKissTypeTxdelay (_port : Nibble) (s : State) : Host.Outcome State Fault Refusal := .next (closeNondata s)

/-- KISS_TYPE_NONDATA: consumed and counted RX_NONDATA (R72, R132). -/
def execKissTypeNondata (_port _cmd : Nibble) (s : State) : Host.Outcome State Fault Refusal := .next (closeNondata s)

end Sys2Proof.Machine
end

