-- ==== Sys2Proof/Machine/Status.lean ====
section
/-! DEFINITION. The status counter operations (43_status.md) and the reserved operation codes (30_encoding.md R83). -/

namespace Sys2Proof.Machine

/-- CTR_READ (R220). -/
def execCtrRead (n : CtrId) (s : State) : Host.Outcome State Fault Refusal :=
  .next (completeOk (word16Bytes (s.ctr.get n)) s)

/-- CTR_CLEAR (R221). -/
def execCtrClear (s : State) : Host.Outcome State Fault Refusal :=
  .next (completeOk [] { s with ctr := .zero })

/-- RESERVED_OP: refused with `ILLEGAL_OP`, whatever bytes follow the OP (R83). -/
def execReservedOp (_op : Byte) (_rest : List Byte) (s : State) : Host.Outcome State Fault Refusal :=
  .next (raiseFault .illegalOp s)

end Sys2Proof.Machine
end

