-- ==== Sys2Proof/Machine/Dispatch.lean ====
section
/-! DEFINITION. One arm for each constructor of Instr: the meaning of the row. -/

namespace Sys2Proof.Machine

/-- The effect of an instruction on a state. -/
def exec (i : Instr) (s : State) : Host.Outcome State Fault Refusal :=
  match i with
  | .kissSend type payload => Sys2Proof.Machine.execKissSend type payload s
  | .kissSetTxdelay ms => Sys2Proof.Machine.execKissSetTxdelay ms s
  | .kissEscape data => Sys2Proof.Machine.execKissEscape data s
  | .kissUnescape data => Sys2Proof.Machine.execKissUnescape data s
  | .lineReset => Sys2Proof.Machine.execLineReset s
  | .encAddr a last => Sys2Proof.Machine.execEncAddr a last s
  | .buildHeader src dest path => Sys2Proof.Machine.execBuildHeader src dest path s
  | .buildUi src dest path info => Sys2Proof.Machine.execBuildUi src dest path info s
  | .buildU src dest path ctrl => Sys2Proof.Machine.execBuildU src dest path ctrl s
  | .buildI src dest path ns nr info => Sys2Proof.Machine.execBuildI src dest path ns nr info s
  | .decAddr unit => Sys2Proof.Machine.execDecAddr unit s
  | .parse frame => Sys2Proof.Machine.execParse frame s
  | .classify ctrl => Sys2Proof.Machine.execClassify ctrl s
  | .fcsCalc data => Sys2Proof.Machine.execFcsCalc data s
  | .fcsCheck data => Sys2Proof.Machine.execFcsCheck data s
  | .ctrRead n => Sys2Proof.Machine.execCtrRead n s
  | .ctrClear => Sys2Proof.Machine.execCtrClear s
  | .reservedOp op rest => Sys2Proof.Machine.execReservedOp op rest s
  | .buildSabm src dest path => Sys2Proof.Machine.execBuildSabm src dest path s
  | .buildUa src dest path => Sys2Proof.Machine.execBuildUa src dest path s
  | .buildDisc src dest path => Sys2Proof.Machine.execBuildDisc src dest path s
  | .buildDm src dest path => Sys2Proof.Machine.execBuildDm src dest path s
  | .kissData port payload => Sys2Proof.Machine.execKissData port payload s
  | .rxHuntFend => Sys2Proof.Machine.execRxHuntFend s
  | .rxHuntOther b => Sys2Proof.Machine.execRxHuntOther b s
  | .rxFrameFend => Sys2Proof.Machine.execRxFrameFend s
  | .rxFrameFesc => Sys2Proof.Machine.execRxFrameFesc s
  | .rxFrameOther b => Sys2Proof.Machine.execRxFrameOther b s
  | .rxEscTfend => Sys2Proof.Machine.execRxEscTfend s
  | .rxEscTfesc => Sys2Proof.Machine.execRxEscTfesc s
  | .rxEscOther b => Sys2Proof.Machine.execRxEscOther b s
  | .kissTypeData port => Sys2Proof.Machine.execKissTypeData port s
  | .kissTypeTxdelay port => Sys2Proof.Machine.execKissTypeTxdelay port s
  | .kissTypeNondata port cmd => Sys2Proof.Machine.execKissTypeNondata port cmd s
  | .ctlUi => Sys2Proof.Machine.execCtlUi s
  | .ctlSabm => Sys2Proof.Machine.execCtlSabm s
  | .ctlUa => Sys2Proof.Machine.execCtlUa s
  | .ctlDisc => Sys2Proof.Machine.execCtlDisc s
  | .ctlDm => Sys2Proof.Machine.execCtlDm s
  | .ctlI ns nr bit4 => Sys2Proof.Machine.execCtlI ns nr bit4 s
  | .ctlRr nr bit4 => Sys2Proof.Machine.execCtlRr nr bit4 s
  | .ctlRnr nr bit4 => Sys2Proof.Machine.execCtlRnr nr bit4 s
  | .ctlRej nr bit4 => Sys2Proof.Machine.execCtlRej nr bit4 s
  | .ctlSUnknown nr bit4 => Sys2Proof.Machine.execCtlSUnknown nr bit4 s
  | .ctlOther ctrl => Sys2Proof.Machine.execCtlOther ctrl s
  | .pidNoL3 => Sys2Proof.Machine.execPidNoL3 s
  | .addrUnit unit => Sys2Proof.Machine.execAddrUnit unit s

end Sys2Proof.Machine
end

