-- ==== Sys2Proof/Machine/Step.lean ====
section
/-! DEFINITION. One step of a run: the next agent's step in order (20_memory.md R58, 60_exceptions.md R241). -/

namespace Sys2Proof.Machine

/-- The block takes the next input, decodes it and performs it completely (R12, R240); a record that fails a check raises its
fault (R231). With no input left the block holds its state (R243, R247). -/
def step (s : State) : Host.Outcome State Fault Refusal :=
  match s.inputs with
  | [] => .next (idle s)
  | input :: rest =>
    match decodeInput s input with
    | .ok i => exec i { s with inputs := rest }
    | .error f => .next (raiseFault f { s with inputs := rest })

/-- The state with a word of the opcode table as its next input (log entry 7): a command record; an RX byte, with the
unframer in the state its row names; or a control byte, which only the record of CLASSIFY carries to the classifier. -/
def State.withFetchWord (s : State) (nbits w : Nat) : State :=
  match readTableWord nbits w with
  | .record bytes => { s with inputs := .command bytes :: s.inputs }
  | .rx mode esc b => { s with rxMode := mode, rxEsc := esc, inputs := .rxByte b :: s.inputs }
  | .control c => { s with inputs := .command [0x22, c] :: s.inputs }

end Sys2Proof.Machine
end

