-- ==== Sys2Proof/Safety.lean ====
section
/-! DEFINITION. The terms the statements use: the invariant of the block, what a stream of RX bytes delivers when it is read
whole (40_kiss.md R134), which callsigns come back from a round trip (41_ax25_encoder.md R159), and the spec's formulas written
once more, independently of the machine's own functions, for the statements that compare the two. A run of this block is safe
when it goes on: no step stops (Machine/State.lean, `Fault`). -/

namespace Sys2Proof.Safety

open Sys2Proof.Machine

/-! ### The invariant -/

/-- What holds of the block in every state a run reaches: the parameters are admissible (R7); the receive buffer is within its
capacity (R22, R26); in HUNT nothing is buffered, pending or overrun (R25, R130, R133); a frame is marked overrun only when the
buffer is full (R131); only an `OK` result carries data (R95); no delivered payload reaches the capacity (R131, R132). -/
structure Inv (s : State) : Prop where
  cfg : s.cfg.wf
  buffer : s.rxBuf.length ≤ s.cfg.rxMax
  hunt : s.rxMode = .hunt → s.rxBuf = [] ∧ s.rxEsc = false ∧ s.rxOvf = false
  overrun : s.rxOvf = true → s.rxBuf.length = s.cfg.rxMax
  results : ∀ r ∈ s.results, r.code ≠ .ok → r.data = []
  delivered : ∀ f ∈ s.rxOut, f.payload.length < s.cfg.rxMax

/-! ### Streams (R134) -/

/-- The completed intervals of a stream: split at every 0xC0, less the part before the first and the part after the last. -/
def completedIntervals (bytes : List Byte) : List (List Byte) := ((bytes.splitOn 0xC0).drop 1).dropLast

/-- What a completed interval delivers: its unescaped bytes are a type byte of command 0 and the payload behind it. -/
def intervalDelivery (policy : BadEsc) (interval : List Byte) : Option RxFrame :=
  match unescape policy interval with
  | [] => none
  | t :: payload => if t &&& 0x0F = 0 then some ⟨(t >>> 4).setWidth 4, payload⟩ else none

/-- What a whole stream delivers, in order. -/
def streamDeliveries (policy : BadEsc) (bytes : List Byte) : List RxFrame :=
  (completedIntervals bytes).filterMap (intervalDelivery policy)

/-- A state whose steps to come are the given bytes of the RX line, and no command. -/
def onLine (bytes : List Byte) (s : State) : State := { s with inputs := bytes.map .rxByte }

/-! ### The spec's formulas, written from its rules a second time -/

/-- The escape map of R73, byte by byte. -/
def escaped (bytes : List Byte) : List Byte :=
  bytes.flatMap fun b => if b = 0xC0 then [0xDB, 0xDC] else if b = 0xDB then [0xDB, 0xDD] else [b]

/-- `u32 L` big-endian by its four bytes, then the bytes (R97). -/
def counted (data : List Byte) : List Byte :=
  BitVec.ofNat 8 (data.length >>> 24) :: BitVec.ofNat 8 (data.length >>> 16) :: BitVec.ofNat 8 (data.length >>> 8) ::
    BitVec.ofNat 8 data.length :: data

/-- An address unit by its positions (R74): byte i is character i, or a space, shifted left; then the SSID byte. -/
def unitBytes (a : Addr) (last : Bool) : List Byte :=
  ((List.range 6).map fun i => (a.callsign.getD i 0x20).shiftLeft 1) ++
    [BitVec.ofNat 8 (96 + 2 * a.ssid.toNat + last.toNat)]

/-- An address block by R152's loop: unit j of n carries the last bit exactly when j = n - 1. -/
def addressBlock (addrs : List Addr) : List Byte :=
  addrs.zipIdx.flatMap fun p => unitBytes p.1 (p.2 + 1 == addrs.length)

/-- The state after a command that only reports: one `OK` record with the data. -/
def reports (data : List Byte) (s : State) : State := { s with results := s.results ++ [⟨.ok, data⟩] }

/-! ### Addresses that come back (R159) -/

/-- R159's condition on a callsign: 1 to 6 bytes, each below 0x80, the last not a space. -/
def returns (a : Addr) : Prop :=
  1 ≤ a.callsign.length ∧ a.callsign.length ≤ 6 ∧ (∀ b ∈ a.callsign, b.toNat < 128) ∧ a.callsign.getLast? ≠ some 0x20

/-- What the decoder reports of such an address (R98): its callsign, SSID and last bit, and `crh` 3. -/
def reported (a : Addr) (last : Bool) : List Byte :=
  BitVec.ofNat 8 a.callsign.length :: (a.callsign ++ [a.ssid.setWidth 8, if last then 1 else 0, 3])

/-- The reports of a path, the last bit on its final entry (R97, R152). -/
def reportedPath : List Addr → List Byte
  | [] => []
  | [a] => reported a true
  | a :: more => reported a false ++ reportedPath more

/-- PARSE's report (R97) of a frame built from `src`, `dest`, `path` with a control byte, an optional PID and info. -/
def parseReport (src dest : Addr) (path : List Addr) (ctrl : Byte) (pid : Option Byte) (info : List Byte) : List Byte :=
  reported dest false ++ reported src path.isEmpty ++
    [BitVec.ofNat 8 (path.length / 256), BitVec.ofNat 8 path.length] ++ reportedPath path ++
    [ctrl, if pid.isSome then 1 else 0, pid.getD 0] ++ counted info

/-! ### A frame by its positions (R191) -/

/-- Unit j of a frame. -/
def unitAt (f : List Byte) (j : Nat) : AddrUnit :=
  ⟨f.getD (7 * j) 0, f.getD (7 * j + 1) 0, f.getD (7 * j + 2) 0, f.getD (7 * j + 3) 0, f.getD (7 * j + 4) 0,
    f.getD (7 * j + 5) 0, f.getD (7 * j + 6) 0⟩

/-- Whether unit j of a frame has its last bit set. -/
def lastBitAt (f : List Byte) (j : Nat) : Bool := (f.getD (7 * j + 6) 0).getLsbD 0

/-- Unit k is the first among the whole units of the frame with its last bit set. -/
def blockEndsAt (f : List Byte) (k : Nat) : Prop :=
  k < f.length / 7 ∧ lastBitAt f k = true ∧ ∀ j < k, lastBitAt f j = false

/-- The state after PARSE's null outcome (R190): counted, and reported without data. -/
def parsedNull (s : State) : State :=
  { s with ctr := { s.ctr with parseNull := s.ctr.parseNull + 1 }, results := s.results ++ [⟨.parseNull, []⟩] }

/-- The state after PARSE's `FCS_BAD` outcome (R190). -/
def parsedFcsBad (s : State) : State :=
  { s with ctr := { s.ctr with fcsBad := s.ctr.fcsBad + 1 }, results := s.results ++ [⟨.fcsBad, []⟩] }

end Sys2Proof.Safety
end

