-- ==== Sys2Proof/Certificates/Slice0/Obligations.lean ====
section
/-! DEFINITION. The statements for the provers. Each says something the spec's rules say of the block; none is about a program.
An equation whose right side is an explicit next state is a result statement, a completion statement and a frame in one: every
field it does not name is the field of the state before. -/

open Sys2Proof Sys2Proof.Machine Sys2Proof.Safety

/-! ### Reset, steps, whole-machine rules -/

/-- R34, R260: the value of every field after reset, for every choice of the parameters. The second line, that State.reset is
built with the reference values of R7, is the model's DESIGN CHOICE (log entry 3). The third, that reset as an event in any state
keeps the parameters, is R262, by the function applyReset with which the model says it, since reset is no step of a run (log entry
11); it says nothing of the steps still to come, which are the model's own field (log entry 1). -/
def Obligations.ResetLeavesTheSpecValues : Prop :=
  (∀ cfg : Config,
    (State.resetWith cfg).rxMode = .hunt ∧ (State.resetWith cfg).rxEsc = false ∧ (State.resetWith cfg).rxBuf = [] ∧
    (State.resetWith cfg).rxOvf = false ∧ (∀ n, (State.resetWith cfg).ctr.get n = 0) ∧
    (State.resetWith cfg).txLine = [] ∧ (State.resetWith cfg).rxOut = [] ∧ (State.resetWith cfg).results = []) ∧
  State.reset = State.resetWith ⟨1024, .pass, .none, 0⟩ ∧
  (∀ s : State, { applyReset s with inputs := [] } = State.resetWith s.cfg)

/-- R12, R58, R80, R130: a step takes the next agent's step in order and performs the instruction it decodes to; with nothing
left to do the block holds its state (R247). -/
def Obligations.StepPerformsTheNextInput : Prop :=
  (∀ (s : State) (rest : List Input) (record : List Byte) (i : Instr),
    s.inputs = .command record :: rest → decodeRecord record = .ok i → step s = exec i { s with inputs := rest }) ∧
  (∀ (s : State) (rest : List Input) (b : Byte),
    s.inputs = .rxByte b :: rest → step s = exec (decodeRx s.rxMode s.rxEsc b) { s with inputs := rest }) ∧
  (∀ s : State, s.inputs = [] → step s = .next s)

/-- R231: a refused record appends its fault record and changes nothing else, for each of the seven faults; RESERVED_OP is the
instruction whose own effect is that refusal (an instruction of its own by log entry 6). -/
def Obligations.RefusedRecordChangesOnlyResults : Prop :=
  (∀ (s : State) (rest : List Input) (record : List Byte) (f : FaultCode),
    s.inputs = .command record :: rest → decodeRecord record = .error f →
      step s = .next { s with inputs := rest, results := s.results ++ [⟨.fault f, []⟩] }) ∧
  (∀ (s : State) (op : Byte) (more : List Byte),
    exec (.reservedOp op more) s = .next { s with results := s.results ++ [⟨.fault .illegalOp, []⟩] })

/-- R233, R31, and that every command completes (R240's inference, which it marks [derived]): every step completes, for every record (malformed ones too) and every byte in every state; it uses up one
of the agents' steps and changes no parameter. -/
def Obligations.EveryStepCompletes : Prop :=
  ∀ s : State, ∃ t, step s = .next t ∧ t.inputs = s.inputs.tail ∧ t.cfg = s.cfg

/-- R27, R28, R29: the three output ports only grow at their ends. -/
def Obligations.OutputsOnlyGrow : Prop :=
  ∀ s t : State, step s = .next t → s.txLine <+: t.txLine ∧ s.rxOut <+: t.rxOut ∧ s.results <+: t.results

/-- R29, R95: each command appends exactly one result record, without data unless its code is OK; an RX byte appends none. -/
def Obligations.EachCommandAppendsOneResult : Prop :=
  ∀ s t : State, step s = .next t →
    (∀ record rest, s.inputs = .command record :: rest →
      ∃ x : ResultRecord, t.results = s.results ++ [x] ∧ (x.code ≠ .ok → x.data = [])) ∧
    (∀ b rest, s.inputs = .rxByte b :: rest → t.results = s.results)

/-- The invariant of Safety.lean holds right after reset, for every admissible choice of the parameters. -/
def Obligations.ResetMeetsInvariant : Prop :=
  Inv State.reset ∧ ∀ cfg : Config, cfg.wf → Inv (State.resetWith cfg)

/-- R22, R25, R95, R131: from every state with the invariant, a step leads to a state with the invariant. -/
def Obligations.EveryStepKeepsInvariant : Prop :=
  ∀ s t : State, Inv s → step s = .next t → Inv t

/-- R25, R33: a command other than LINE_RESET writes neither the unframer nor the RX frame port; LINE_RESET puts the unframer
back and keeps the port. -/
def Obligations.CommandsKeepTheUnframer : Prop :=
  ∀ (s t : State) (record : List Byte) (rest : List Input),
    s.inputs = .command record :: rest → step s = .next t →
      t.rxOut = s.rxOut ∧
      (decodeRecord record ≠ .ok .lineReset →
        t.rxMode = s.rxMode ∧ t.rxEsc = s.rxEsc ∧ t.rxBuf = s.rxBuf ∧ t.rxOvf = s.rxOvf) ∧
      (decodeRecord record = .ok .lineReset →
        t.rxMode = .hunt ∧ t.rxEsc = false ∧ t.rxBuf = [] ∧ t.rxOvf = false)

/-- R235, R130: an RX byte delivers at most one frame or increments at most one other counter, and only at a FEND; it never
touches the TX line, the results or the counters PARSE_NULL and FCS_BAD. -/
def Obligations.RxByteHasAtMostOneEffect : Prop :=
  ∀ (s t : State) (b : Byte) (rest : List Input), s.inputs = .rxByte b :: rest → step s = .next t →
    t.txLine = s.txLine ∧ t.results = s.results ∧
    ((t.rxOut = s.rxOut ∧ t.ctr = s.ctr) ∨
     (b = 0xC0 ∧ (∃ f, t.rxOut = s.rxOut ++ [f]) ∧ t.ctr = { s.ctr with rxData := s.ctr.rxData + 1 }) ∨
     (b = 0xC0 ∧ t.rxOut = s.rxOut ∧
       (t.ctr = { s.ctr with rxNondata := s.ctr.rxNondata + 1 } ∨ t.ctr = { s.ctr with rxOverrun := s.ctr.rxOverrun + 1 })))

/-- R23: RX_DATA goes up with every delivered frame and with nothing else, modulo 2^16; only CTR_CLEAR, whose one record is
0x31, breaks the count. -/
def Obligations.DeliveriesAreCounted : Prop :=
  ∀ s t : State, step s = .next t → s.inputs.head? ≠ some (.command [0x31]) →
    t.ctr.rxData = s.ctr.rxData + BitVec.ofNat 16 (t.rxOut.length - s.rxOut.length)

/-- R58: commands and RX bytes share only the counters: a command that is neither LINE_RESET, CTR_CLEAR nor a CTR_READ of an
unframer counter gives the same state before an RX byte as after it. -/
def Obligations.CommandsCommuteWithRxBytes : Prop :=
  ∀ (s : State) (record : List Byte) (b : Byte),
    decodeRecord record ≠ .ok .lineReset → decodeRecord record ≠ .ok .ctrClear →
    (∀ n, n = .rxData ∨ n = .rxNondata ∨ n = .rxOverrun → decodeRecord record ≠ .ok (.ctrRead n)) →
    ∃ t, Sys2Proof.core.run 2 { s with inputs := [.command record, .rxByte b] } = .next t ∧
      Sys2Proof.core.run 2 { s with inputs := [.rxByte b, .command record] } = .next t

/-- R24: an increment adds 1 modulo 65536, does not saturate, and leaves the other counters and the rest of the state. -/
def Obligations.CounterIncrementWraps : Prop :=
  ∀ (n : CtrId) (s : State),
    ((ctrInc n s).ctr.get n).toNat = ((s.ctr.get n).toNat + 1) % 65536 ∧
    (∀ m, m ≠ n → (ctrInc n s).ctr.get m = s.ctr.get m) ∧
    ({ ctrInc n s with ctr := s.ctr } : State) = s

/-! ### Encodings -/

/-- R80, R82, R83, R130, R72, R77: eight command records, at least one of every unit, and a reserved record, written out from the
spec's layouts, decode to their instructions; the empty record is refused; two RX bytes, a type byte and two control bytes are
read as their rows. (That the RX, type and control rows are instructions of their own is the model's, log entry 2; that a reserved
OP decodes to an instruction RESERVED_OP is the model's, log entry 6.) -/
def Obligations.SpecRecordsDecode : Prop :=
  decodeRecord [0x01, 0x10, 0x00, 0x01, 0x41] = .ok (.kissSend 0x10 [0x41]) ∧
  decodeRecord [0x02, 0xFF, 0xFF, 0xFF, 0xFB] = .ok (.kissSetTxdelay 0xFFFFFFFB) ∧
  decodeRecord [0x05] = .ok .lineReset ∧
  decodeRecord [0x10, 0x02, 0x43, 0x51, 0x0F, 0x01] = .ok (.encAddr ⟨[0x43, 0x51], 15⟩ true) ∧
  decodeRecord [0x14, 0x01, 0x41, 0x00, 0x01, 0x42, 0x00, 0x00, 0x05, 0x02, 0x00, 0x01, 0x78] =
    .ok (.buildI ⟨[0x41], 0⟩ ⟨[0x42], 0⟩ [] 5 2 [0x78]) ∧
  decodeRecord [0x20, 0x9C, 0x60, 0x86, 0x82, 0x98, 0x98, 0x6B] =
    .ok (.decAddr ⟨0x9C, 0x60, 0x86, 0x82, 0x98, 0x98, 0x6B⟩) ∧
  decodeRecord [0x22, 0x2F] = .ok (.classify 0x2F) ∧
  decodeRecord [0x30, 0x04] = .ok (.ctrRead .fcsBad) ∧
  decodeRecord [0x06, 0x01] = .ok (.reservedOp 0x06 [0x01]) ∧
  decodeRecord [] = .error .badOperand ∧
  decodeRx .hunt false 0xC0 = .rxHuntFend ∧ decodeRx .frame true 0xDC = .rxEscTfend ∧
  decodeType 0x51 = .kissTypeTxdelay 5 ∧ decodeCtl 0xEE = .ctlI 7 7 false ∧ decodeCtl 0xA5 = .ctlRnr 5 false

/-- R81, R82, R85, R88: no bit of a well-formed command is dropped: its record decodes to it, and a pseudo-operation's record
to the operation it stands for (log entry 6). -/
def Obligations.DecodeInvertsEncode : Prop :=
  ∀ i : Instr, i.wf = true → i.format = .cmd ∨ i.format = .pseudo → decodeRecord (encode i) = .ok i.expand

/-- R80 to R84: a record that decodes is the one record of a well-formed command (RESERVED_OP for a reserved OP, log entry 6). -/
def Obligations.EncodeInvertsDecode : Prop :=
  ∀ (record : List Byte) (i : Instr), decodeRecord record = .ok i →
    encode i = record ∧ i.wf = true ∧ i.format = .cmd

/-- R77, R86: every control byte is read as exactly one control row, and each row's byte is read back with its fields.
(That a control row is an instruction of its own is the model's, log entry 2.) -/
def Obligations.ControlRowsRoundTrip : Prop :=
  (∀ c : Byte, encode (decodeCtl c) = [c] ∧ (decodeCtl c).wf = true ∧ (decodeCtl c).format = .ax25Ctl) ∧
  (∀ i : Instr, i.wf = true → i.format = .ax25Ctl → ∃ c, encode i = [c] ∧ decodeCtl c = i)

/-- R71, R72, R74, R78, R130: the same of type bytes, address units, the PID, and of RX bytes in each unframer state. (That
these rows are instructions of their own is the model's, log entry 2.) -/
def Obligations.WireRowsRoundTrip : Prop :=
  (∀ t : Byte, encode (decodeType t) = [t] ∧ (decodeType t).wf = true ∧ (decodeType t).format = .kissType) ∧
  (∀ i : Instr, i.wf = true → i.format = .kissType → ∃ t, encode i = [t] ∧ decodeType t = i) ∧
  (∀ (mode : RxMode) (esc : Bool) (b : Byte),
    encode (decodeRx mode esc b) = [b] ∧ (decodeRx mode esc b).wf = true ∧ (decodeRx mode esc b).format = .kissRx) ∧
  (∀ i : Instr, i.wf = true → i.format = .kissRx → ∃ mode esc b, encode i = [b] ∧ decodeRx mode esc b = i) ∧
  (∀ unit : AddrUnit, decodeUnit (encode (.addrUnit unit)) = some (.addrUnit unit)) ∧
  decodePid 0xF0 = some .pidNoL3 ∧ encode .pidNoL3 = [0xF0]

/-- R83: the 239 OP values outside R82's table are refused with ILLEGAL_OP before any operand is read, whatever follows. -/
def Obligations.ReservedOpsAreIllegal : Prop :=
  (∀ op : Byte,
    (op.toNat = 0 ∨ (6 ≤ op.toNat ∧ op.toNat ≤ 0x0F) ∨ (0x15 ≤ op.toNat ∧ op.toNat ≤ 0x1F) ∨
      (0x25 ≤ op.toNat ∧ op.toNat ≤ 0x2F) ∨ 0x32 ≤ op.toNat) →
    ∀ (more : List Byte) (s : State) (rest : List Input), s.inputs = .command (op :: more) :: rest →
      step s = .next { s with inputs := rest, results := s.results ++ [⟨.fault .illegalOp, []⟩] }) ∧
  ((List.range 256).countP fun n => (opOfByte (BitVec.ofNat 8 n)).isNone) = 239

/-- R84: a well-formed command's record with bytes after its last field is refused with BAD_OPERAND. -/
def Obligations.TrailingBytesAreRefused : Prop :=
  ∀ (i : Instr) (extra : List Byte), i.wf = true → i.format = .cmd ∨ i.format = .pseudo →
    (∀ op rest, i ≠ .reservedOp op rest) → extra ≠ [] →
    decodeRecord (encode i ++ extra) = .error .badOperand

/-- R84: a well-formed command's record cut short anywhere, down to the empty record, is refused with BAD_OPERAND. -/
def Obligations.ShortRecordsAreRefused : Prop :=
  ∀ (i : Instr) (n : Nat), i.wf = true → i.format = .cmd ∨ i.format = .pseudo →
    (∀ op rest, i ≠ .reservedOp op rest) → n < (encode i).length →
    decodeRecord ((encode i).take n) = .error .badOperand

/-- R81, R84, R151: the checks of an ENC_ADDR record with all its bytes present, in order: BAD_CHAR over the first six callsign
bytes, BAD_SSID, BAD_OPERAND for the `bit`, and otherwise the instruction. -/
def Obligations.AddressFieldChecks : Prop :=
  ∀ (callsign : List Byte) (ssid last : Byte), callsign.length < 256 →
    decodeRecord (0x10 :: BitVec.ofNat 8 callsign.length :: (callsign ++ [ssid, last])) =
      if ∃ b ∈ callsign.take 6, 128 ≤ b.toNat then .error .badChar
      else if 15 < ssid.toNat then .error .badSsid
      else if 1 < last.toNat then .error .badOperand
      else .ok (.encAddr ⟨callsign, ssid.setWidth 4⟩ (last == 1))

/-- R81, R153: in each builder's record, after a good source and destination, a path count above 8 is PATH_TOO_LONG whatever
follows it. -/
def Obligations.LongPathIsRefused : Prop :=
  ∀ (op : Byte) (src dest : Addr) (k : Byte) (rest : List Byte),
    op ∈ ([0x11, 0x12, 0x13, 0x14] : List Byte) → src.wf = true → dest.wf = true → 8 < k.toNat →
    decodeRecord (op :: (addrField src ++ addrField dest ++ k :: rest)) = .error .pathTooLong

/-- R81, R158, R220: N(S), then N(R), above 7 is BAD_SEQ before the info field is looked at; a CTR_READ record names one of
the five counters of R23 by its number, or is BAD_CTR. -/
def Obligations.NumberFieldChecks : Prop :=
  (∀ (src dest : Addr) (path : List Addr) (ns nr : Byte) (rest : List Byte), routeWf src dest path = true →
    (7 < ns.toNat → decodeRecord (0x14 :: (routeFields src dest path ++ ns :: rest)) = .error .badSeq) ∧
    (ns.toNat ≤ 7 → 7 < nr.toNat →
      decodeRecord (0x14 :: (routeFields src dest path ++ ns :: nr :: rest)) = .error .badSeq)) ∧
  decodeRecord [0x30, 0] = .ok (.ctrRead .rxData) ∧ decodeRecord [0x30, 1] = .ok (.ctrRead .rxNondata) ∧
  decodeRecord [0x30, 2] = .ok (.ctrRead .rxOverrun) ∧ decodeRecord [0x30, 3] = .ok (.ctrRead .parseNull) ∧
  decodeRecord [0x30, 4] = .ok (.ctrRead .fcsBad) ∧
  ∀ (n : Byte) (rest : List Byte), 4 < n.toNat → decodeRecord (0x30 :: n :: rest) = .error .badCtr

/-- R96: the byte of every result code, and that no other code exists. -/
def Obligations.ResultCodeBytes : Prop :=
  ResultCode.ok.byte = 0x00 ∧ (ResultCode.fault .illegalOp).byte = 0x01 ∧ (ResultCode.fault .badOperand).byte = 0x02 ∧
  (ResultCode.fault .badSsid).byte = 0x03 ∧ (ResultCode.fault .badChar).byte = 0x04 ∧
  (ResultCode.fault .pathTooLong).byte = 0x05 ∧ (ResultCode.fault .badSeq).byte = 0x06 ∧
  (ResultCode.fault .badCtr).byte = 0x07 ∧ ResultCode.parseNull.byte = 0x10 ∧ ResultCode.fcsBad.byte = 0x11 ∧
  ∀ c : ResultCode, c.byte.toNat ≤ 7 ∨ c.byte = 0x10 ∨ c.byte = 0x11

/-! ### KISS unit -/

/-- R71, R120, R124: KISS_SEND appends FEND, the raw type byte, the escaped payload and FEND to the TX line, reports OK without
data, and does nothing else; KISS_DATA does so with type `port << 4` (R88; log entry 6). -/
def Obligations.KissSendAppendsOneFrame : Prop :=
  (∀ (type : Byte) (payload : List Byte) (s : State),
    exec (.kissSend type payload) s =
      .next { s with txLine := s.txLine ++ ([0xC0, type] ++ escaped payload ++ [0xC0]), results := s.results ++ [⟨.ok, []⟩] }) ∧
  (∀ (port : Nibble) (payload : List Byte) (s : State),
    exec (.kissData port payload) s =
      .next { s with txLine := s.txLine ++ ([0xC0, BitVec.ofNat 8 (16 * port.toNat)] ++ escaped payload ++ [0xC0]),
                     results := s.results ++ [⟨.ok, []⟩] })

/-- R85, R125: KISS_SET_TXDELAY sends the one-byte frame of command 1 on port TXD_PORT whose value is the milliseconds divided
by ten toward zero and clamped to 0..255, escaped like any payload. -/
def Obligations.SetTxdelaySendsOneByte : Prop :=
  ∀ (ms : Word32) (s : State), ∃ v : Byte,
    v.toNat = (if ms.toInt < 0 then 0 else if 2550 ≤ ms.toInt then 255 else ms.toNat / 10) ∧
    exec (.kissSetTxdelay ms) s =
      .next { s with txLine := s.txLine ++ ([0xC0, BitVec.ofNat 8 (16 * s.cfg.txdPort.toNat + 1)] ++ escaped [v] ++ [0xC0]),
                     results := s.results ++ [⟨.ok, []⟩] }

/-- R121: `unesc_step` in its cases, and `unescape` as the loop over it from flag 0. -/
def Obligations.UnescapeFollowsItsSteps : Prop :=
  (∀ policy, unescStep policy true 0xDC = (false, [0xC0]) ∧ unescStep policy true 0xDD = (false, [0xDB]) ∧
    unescStep policy false 0xDB = (true, []) ∧ ∀ b, b ≠ 0xDB → unescStep policy false b = (false, [b])) ∧
  (∀ b, b ≠ 0xDC → b ≠ 0xDD →
    unescStep .pass true b = (false, [b]) ∧ unescStep .drop true b = (false, []) ∧
      unescStep .keep true b = (false, [0xDB, b])) ∧
  (∀ policy (bytes : List Byte),
    unescape policy bytes =
      (bytes.foldl (fun (acc : Bool × List Byte) b =>
        ((unescStep policy acc.1 b).1, acc.2 ++ (unescStep policy acc.1 b).2)) (false, [])).2)

/-- R97, R122, R123: KISS_ESCAPE and KISS_UNESCAPE report the length and the bytes of their function and change nothing else
(rxEsc is not touched). -/
def Obligations.EscapeCommandsReport : Prop :=
  ∀ (data : List Byte) (s : State),
    exec (.kissEscape data) s = .next (reports (counted (escaped data)) s) ∧
    exec (.kissUnescape data) s = .next (reports (counted (unescape s.cfg.badEsc data)) s)

/-- R133: LINE_RESET puts the unframer to its reset state, keeps the counters, the TX line and the delivered frames, and twice
is the same as once but for the second result record. -/
def Obligations.LineResetPutsTheUnframerBack : Prop :=
  (∀ s : State, exec .lineReset s =
    .next { s with rxMode := .hunt, rxEsc := false, rxBuf := [], rxOvf := false, results := s.results ++ [⟨.ok, []⟩] }) ∧
  (∀ s t u : State, exec .lineReset s = .next t → exec .lineReset t = .next u →
    u = { t with results := t.results ++ [⟨.ok, []⟩] })

/-- R73: `escape` is the escape map byte by byte; and R120's two inferences, which it marks [derived]: its length is that of the
payload plus the number of special bytes in it, and it contains no 0xC0. -/
def Obligations.EscapeIsTheMap : Prop :=
  ∀ bytes : List Byte,
    escape bytes = escaped bytes ∧
    (escape bytes).length = bytes.length + bytes.countP (fun b => b == 0xC0 || b == 0xDB) ∧
    (0xC0 : Byte) ∉ escape bytes

/-- The laws the spec derives from R120 and R121 (R126 marks them [derived]): law 1 for every policy; law 2 with its exact condition; law 3 for `escape` and for what KISS_SEND puts between its
type byte and its closing FEND. -/
def Obligations.EscapeLaws : Prop :=
  (∀ policy bytes, unescape policy (escape bytes) = bytes) ∧
  (∀ policy (t : List Byte), escape (unescape policy t) = t ↔
    ((0xC0 : Byte) ∉ t ∧ ∀ i : Nat, t[i]? = some 0xDB → t[i + 1]? = some 0xDC ∨ t[i + 1]? = some 0xDD)) ∧
  (∀ bytes : List Byte, (0xC0 : Byte) ∉ escape bytes) ∧
  (∀ (type : Byte) (payload : List Byte) (s t : State), exec (.kissSend type payload) s = .next t →
    ∃ middle, t.txLine = s.txLine ++ [0xC0, type] ++ middle ++ [0xC0] ∧ (0xC0 : Byte) ∉ middle)

/-- R130: in HUNT, a FEND opens a frame and any other byte is discarded. -/
def Obligations.HuntRows : Prop :=
  ∀ s : State, s.rxMode = .hunt →
    exec .rxHuntFend s = .next { s with rxMode := .frame, rxBuf := [], rxEsc := false, rxOvf := false } ∧
    ∀ b : Byte, b ≠ 0xC0 → exec (.rxHuntOther b) s = .next s

/-- R130, R132: a FEND in FRAME closes the interval and opens the next: an overrun frame is discarded and counted, an empty
interval is skipped, a frame of command 0 is delivered and counted, another frame is only counted. A pending escape is
discarded. -/
def Obligations.FrameFendClosesTheInterval : Prop :=
  ∀ s : State, s.rxMode = .frame →
    (s.rxOvf = true → exec .rxFrameFend s =
      .next { s with rxBuf := [], rxEsc := false, rxOvf := false, ctr := { s.ctr with rxOverrun := s.ctr.rxOverrun + 1 } }) ∧
    (s.rxOvf = false → s.rxBuf = [] → exec .rxFrameFend s = .next { s with rxEsc := false }) ∧
    (∀ t payload, s.rxOvf = false → s.rxBuf = t :: payload → t.toNat % 16 = 0 → exec .rxFrameFend s =
      .next { s with rxBuf := [], rxEsc := false, ctr := { s.ctr with rxData := s.ctr.rxData + 1 },
                     rxOut := s.rxOut ++ [⟨BitVec.ofNat 4 (t.toNat / 16), payload⟩] }) ∧
    (∀ t payload, s.rxOvf = false → s.rxBuf = t :: payload → t.toNat % 16 ≠ 0 → exec .rxFrameFend s =
      .next { s with rxBuf := [], rxEsc := false, ctr := { s.ctr with rxNondata := s.ctr.rxNondata + 1 } })

/-- R121, R130, R131: the rows of FRAME with room for the bytes they produce: what is stored, and the escape flag. -/
def Obligations.FrameRowsStoreBytes : Prop :=
  ∀ s : State, s.rxMode = .frame →
    (s.rxEsc = false →
      exec .rxFrameFesc s = .next { s with rxEsc := true } ∧
      (s.rxBuf.length < s.cfg.rxMax →
        ∀ b : Byte, b ≠ 0xC0 → b ≠ 0xDB → exec (.rxFrameOther b) s = .next { s with rxBuf := s.rxBuf ++ [b] })) ∧
    (s.rxEsc = true →
      (s.rxBuf.length < s.cfg.rxMax →
        exec .rxEscTfend s = .next { s with rxEsc := false, rxBuf := s.rxBuf ++ [0xC0] } ∧
        exec .rxEscTfesc s = .next { s with rxEsc := false, rxBuf := s.rxBuf ++ [0xDB] }) ∧
      ∀ b : Byte, b ≠ 0xC0 → b ≠ 0xDC → b ≠ 0xDD →
        (s.cfg.badEsc = .pass → s.rxBuf.length < s.cfg.rxMax →
          exec (.rxEscOther b) s = .next { s with rxEsc := false, rxBuf := s.rxBuf ++ [b] }) ∧
        (s.cfg.badEsc = .drop → exec (.rxEscOther b) s = .next { s with rxEsc := false }) ∧
        (s.cfg.badEsc = .keep → s.rxBuf.length + 2 ≤ s.cfg.rxMax →
          exec (.rxEscOther b) s = .next { s with rxEsc := false, rxBuf := s.rxBuf ++ [0xDB, b] }))

/-- R121, R130, R131: the same rows without that room: what does not fit is dropped and the frame is marked overrun; with KEEP
and room for one, the first byte is stored and the second dropped. -/
def Obligations.FrameRowsOverrun : Prop :=
  ∀ s : State, s.rxMode = .frame →
    (s.cfg.rxMax ≤ s.rxBuf.length →
      (s.rxEsc = false → ∀ b : Byte, b ≠ 0xC0 → b ≠ 0xDB → exec (.rxFrameOther b) s = .next { s with rxOvf := true }) ∧
      (s.rxEsc = true →
        exec .rxEscTfend s = .next { s with rxEsc := false, rxOvf := true } ∧
        exec .rxEscTfesc s = .next { s with rxEsc := false, rxOvf := true } ∧
        ∀ b : Byte, b ≠ 0xC0 → b ≠ 0xDC → b ≠ 0xDD → s.cfg.badEsc ≠ .drop →
          exec (.rxEscOther b) s = .next { s with rxEsc := false, rxOvf := true })) ∧
    (s.rxBuf.length + 1 = s.cfg.rxMax → s.rxEsc = true → s.cfg.badEsc = .keep →
      ∀ b : Byte, b ≠ 0xC0 → b ≠ 0xDC → b ≠ 0xDD →
        exec (.rxEscOther b) s = .next { s with rxEsc := false, rxBuf := s.rxBuf ++ [0xDB], rxOvf := true })

/-- R72, R132: the type-byte rows: data is delivered from behind the type byte and counted, TXDELAY and the other commands are
counted and ignored; and closing an interval performs the row of its type byte. (That a wire row is an instruction of its own is
the model's, log entry 2.) -/
def Obligations.TypeRowsCloseTheInterval : Prop :=
  (∀ (port : Nibble) (s : State), exec (.kissTypeData port) s =
    .next { s with rxOut := s.rxOut ++ [⟨port, s.rxBuf.drop 1⟩], ctr := { s.ctr with rxData := s.ctr.rxData + 1 } }) ∧
  (∀ (port : Nibble) (s : State), exec (.kissTypeTxdelay port) s =
    .next { s with ctr := { s.ctr with rxNondata := s.ctr.rxNondata + 1 } }) ∧
  (∀ (port cmd : Nibble) (s : State), exec (.kissTypeNondata port cmd) s =
    .next { s with ctr := { s.ctr with rxNondata := s.ctr.rxNondata + 1 } }) ∧
  (∀ (s : State) (t : Byte) (payload : List Byte), s.rxMode = .frame → s.rxOvf = false → s.rxBuf = t :: payload →
    ∃ u, exec (decodeType t) s = .next u ∧ exec .rxFrameFend s = .next { u with rxBuf := [], rxEsc := false })

/-- The whole-stream reading of the unframer that the spec derives from R121, R130, R131, R132 (R134 marks it [derived]). Delivered from reset, when no completed interval unescapes to more than
RX_MAX bytes, a stream delivers exactly what its completed intervals hold, in order. -/
def Obligations.WholeStreamDeliversItsIntervals : Prop :=
  ∀ (cfg : Config) (bytes : List Byte),
    (∀ interval ∈ completedIntervals bytes, (unescape cfg.badEsc interval).length ≤ cfg.rxMax) →
    ∃ t, Sys2Proof.core.run bytes.length (onLine bytes (State.resetWith cfg)) = .next t ∧
      t.rxOut = streamDeliveries cfg.badEsc bytes

/-- From R71, R124, R121, R130, R132 (no rule states it as such): a data frame sent on any port but 12 and fed into the RX line of a block after reset is delivered
once, with its port and payload unchanged, if it fits the buffer. -/
def Obligations.SentFrameIsReceived : Prop :=
  ∀ (cfg : Config) (port : Nibble) (payload : List Byte) (t : State),
    port ≠ 12 → payload.length + 1 ≤ cfg.rxMax → exec (.kissData port payload) (State.resetWith cfg) = .next t →
    ∃ u, Sys2Proof.core.run t.txLine.length (onLine t.txLine (State.resetWith cfg)) = .next u ∧
      u.rxOut = [⟨port, payload⟩]

/-- R265: on port 12 the type byte 0xC0 reads as a FEND: what comes back has the first payload byte for its type byte. -/
def Obligations.PortTwelveFrameIsMisread : Prop :=
  ∀ (cfg : Config) (p : Byte) (payload : List Byte) (t : State),
    payload.length + 1 ≤ cfg.rxMax → exec (.kissSend 0xC0 (p :: payload)) (State.resetWith cfg) = .next t →
    ∃ u, Sys2Proof.core.run t.txLine.length (onLine t.txLine (State.resetWith cfg)) = .next u ∧
      (p.toNat % 16 = 0 → u.rxOut = [⟨BitVec.ofNat 4 (p.toNat / 16), payload⟩] ∧ u.ctr.rxNondata = 0) ∧
      (p.toNat % 16 ≠ 0 → u.rxOut = [] ∧ u.ctr.rxNondata = 1)

/-! ### AX.25 encoder -/

/-- R74, R150, R151: ENC_ADDR reports the 7 bytes of the unit: character i or a space, shifted; then the SSID byte. -/
def Obligations.EncAddrReportsTheUnit : Prop :=
  ∀ (a : Addr) (last : Bool) (s : State),
    exec (.encAddr a last) s = .next (reports (0 :: 0 :: 0 :: 7 :: unitBytes a last) s)

/-- R152 to R158: what each builder reports: the address block by R152's loop, then control, PID and info as R76 lays them
out. No builder appends an FCS (R160) or changes any other state. -/
def Obligations.BuildersReportTheirFrames : Prop :=
  ∀ (src dest : Addr) (path : List Addr) (ctrl : Byte) (ns nr : Bits3) (info : List Byte) (s : State),
    exec (.buildHeader src dest path) s = .next (reports (counted (addressBlock (dest :: src :: path))) s) ∧
    exec (.buildUi src dest path info) s =
      .next (reports (counted (addressBlock (dest :: src :: path) ++ [0x03, 0xF0] ++ info)) s) ∧
    exec (.buildU src dest path ctrl) s = .next (reports (counted (addressBlock (dest :: src :: path) ++ [ctrl])) s) ∧
    exec (.buildI src dest path ns nr info) s =
      .next (reports (counted (addressBlock (dest :: src :: path) ++
        [BitVec.ofNat 8 (2 * ns.toNat + 32 * nr.toNat), 0xF0] ++ info)) s)

/-- R88: each pseudo-operation has the effect and the record of its expansion (log entry 6). -/
def Obligations.PseudoOperationsExpand : Prop :=
  ∀ (src dest : Addr) (path : List Addr) (port : Nibble) (payload : List Byte) (s : State),
    exec (.buildSabm src dest path) s = .next (reports (counted (addressBlock (dest :: src :: path) ++ [0x2F])) s) ∧
    exec (.buildUa src dest path) s = .next (reports (counted (addressBlock (dest :: src :: path) ++ [0x63])) s) ∧
    exec (.buildDisc src dest path) s = .next (reports (counted (addressBlock (dest :: src :: path) ++ [0x43])) s) ∧
    exec (.buildDm src dest path) s = .next (reports (counted (addressBlock (dest :: src :: path) ++ [0x0F])) s) ∧
    encode (.buildSabm src dest path) = encode (.buildU src dest path 0x2F) ∧
    encode (.buildUa src dest path) = encode (.buildU src dest path 0x63) ∧
    encode (.buildDisc src dest path) = encode (.buildU src dest path 0x43) ∧
    encode (.buildDm src dest path) = encode (.buildU src dest path 0x0F) ∧
    exec (.kissData port payload) s = exec (.kissSend (BitVec.ofNat 8 (16 * port.toNat)) payload) s ∧
    encode (.kissData port payload) = encode (.kissSend (BitVec.ofNat 8 (16 * port.toNat)) payload)

/-- The header laws the spec derives from R151 and R152 (R154 marks them [derived]): the header's length; unit j starts at byte 7j; bit 0 of a unit's 7th byte is set in the last unit only; bit 0 of every
callsign byte is 0. -/
def Obligations.HeaderLaws : Prop :=
  ∀ (src dest : Addr) (path : List Addr),
    (hdr src dest path).length = 7 * (2 + path.length) ∧
    ∀ (j : Nat) (a : Addr), (dest :: src :: path)[j]? = some a →
      ((hdr src dest path).drop (7 * j)).take 7 = encAddr a (j + 1 == 2 + path.length) ∧
      (((hdr src dest path).getD (7 * j + 6) 0).getLsbD 0 = (j + 1 == 2 + path.length)) ∧
      ∀ i < 6, ((hdr src dest path).getD (7 * j + i) 0).getLsbD 0 = false

/-- Law 1 that the spec derives from R150, R151, R180 (R159 marks it [derived]): DEC_ADDR of an encoded address gives its callsign, SSID and last bit back, and crh 3. -/
def Obligations.AddressRoundTrip : Prop :=
  ∀ (a : Addr) (last : Bool) (u : AddrUnit) (s : State), returns a → u.bytes = encAddr a last →
    exec (.decAddr u) s = .next (reports (reported a last) s)

/-- Law 2 that the spec derives from R155 and R190 with FCS_MODE = NONE (R159 marks it [derived]): PARSE of a UI frame built from addresses that come back reports them in order, control 0x03,
PID 0xF0 and the same info. -/
def Obligations.UiFrameParsesBack : Prop :=
  ∀ (src dest : Addr) (path : List Addr) (info : List Byte) (s : State),
    s.cfg.fcsMode = .none → returns src → returns dest → (∀ a ∈ path, returns a) →
    exec (.parse (uiFrame src dest path info)) s = .next (reports (parseReport src dest path 0x03 (some 0xF0) info) s)

/-- Law 3 that the spec derives from R158, R190, R195 (R159 marks it [derived]): PARSE of an I frame reports control `(ns << 1) | (nr << 5)` and PID 0xF0, and CLASSIFY of that control gives
class I (5) with N(S) and N(R). -/
def Obligations.IFrameParsesBack : Prop :=
  ∀ (src dest : Addr) (path : List Addr) (ns nr : Bits3) (info : List Byte) (s : State),
    s.cfg.fcsMode = .none → returns src → returns dest → (∀ a ∈ path, returns a) →
    exec (.parse (iFrame src dest path ns nr info)) s =
      .next (reports (parseReport src dest path (BitVec.ofNat 8 (2 * ns.toNat + 32 * nr.toNat)) (some 0xF0) info) s) ∧
    exec (.classify (BitVec.ofNat 8 (2 * ns.toNat + 32 * nr.toNat))) s =
      .next (reports [5, BitVec.ofNat 8 ns.toNat, BitVec.ofNat 8 nr.toNat, 1, 0x49] s)

/-- Law 4 that the spec derives from R156, R190, R195 (R159 marks it [derived]): PARSE of a U frame with one of the four U control values reports that control, no PID and empty info, and
CLASSIFY gives its class and label. -/
def Obligations.UFrameParsesBack : Prop :=
  ∀ (src dest : Addr) (path : List Addr) (s : State),
    s.cfg.fcsMode = .none → returns src → returns dest → (∀ a ∈ path, returns a) →
    (∀ c ∈ ([0x2F, 0x63, 0x43, 0x0F] : List Byte),
      exec (.parse (uFrame src dest path c)) s = .next (reports (parseReport src dest path c none []) s)) ∧
    exec (.classify 0x2F) s = .next (reports [1, 0, 0, 4, 0x53, 0x41, 0x42, 0x4D] s) ∧
    exec (.classify 0x63) s = .next (reports [2, 0, 0, 2, 0x55, 0x41] s) ∧
    exec (.classify 0x43) s = .next (reports [3, 0, 0, 4, 0x44, 0x49, 0x53, 0x43] s) ∧
    exec (.classify 0x0F) s = .next (reports [4, 0, 0, 2, 0x44, 0x4D] s)

/-- R157, R266: a U frame with control 0x03 or an even control parses as PARSE_NULL, whatever its addresses. -/
def Obligations.BuildUWithPidControlParsesNull : Prop :=
  ∀ (src dest : Addr) (path : List Addr) (c : Byte) (s : State),
    s.cfg.fcsMode = .none → c = 0x03 ∨ c.toNat % 2 = 0 →
    exec (.parse (uFrame src dest path c)) s = .next (parsedNull s)

/-! ### AX.25 decoder -/

/-- R98, R180, R181: DEC_ADDR reports the six shifted characters without their trailing spaces, SSID, last bit and bits 7:5;
the address row ADDR_UNIT is that unpacking, and the PID row by itself changes nothing (R78; that these rows are instructions of
their own is the model's, log entry 2). -/
def Obligations.DecAddrReportsTheFields : Prop :=
  (∀ (u : AddrUnit) (s : State), ∃ (callsign : List Byte) (k : Nat) (report : List Byte),
    [u.c0 >>> 1, u.c1 >>> 1, u.c2 >>> 1, u.c3 >>> 1, u.c4 >>> 1, u.c5 >>> 1] = callsign ++ List.replicate k 0x20 ∧
    callsign.getLast? ≠ some 0x20 ∧
    report = BitVec.ofNat 8 callsign.length :: (callsign ++
      [BitVec.ofNat 8 (u.ssidByte.toNat / 2 % 16), BitVec.ofNat 8 (u.ssidByte.toNat % 2),
       BitVec.ofNat 8 (u.ssidByte.toNat / 32)]) ∧
    exec (.decAddr u) s = .next (reports report s) ∧
    exec (.addrUnit u) s = .next (reports report s)) ∧
  (∀ s : State, exec .pidNoL3 s = .next s)

/-- The list the spec derives from R190 (R191 marks it [derived]): the complete list of PARSE outcomes with FCS_MODE = NONE, by the first unit k whose last bit is set. -/
def Obligations.ParseOutcomesAreComplete : Prop :=
  ∀ (f : List Byte) (s : State), s.cfg.fcsMode = .none →
    ((∀ j < f.length / 7, lastBitAt f j = false) → exec (.parse f) s = .next (parsedNull s)) ∧
    (∀ k, blockEndsAt f k →
      (k = 0 → exec (.parse f) s = .next (parsedNull s)) ∧
      (7 * (k + 1) = f.length → exec (.parse f) s = .next (parsedNull s)) ∧
      (∀ c, f[7 * (k + 1)]? = some c → (c = 0x03 ∨ c.toNat % 2 = 0) → 7 * (k + 1) + 1 = f.length →
        exec (.parse f) s = .next (parsedNull s)) ∧
      (∀ c pid, 1 ≤ k → f[7 * (k + 1)]? = some c → (c = 0x03 ∨ c.toNat % 2 = 0) → f[7 * (k + 1) + 1]? = some pid →
        exec (.parse f) s = .next (reports ((decAddr (unitAt f 0)).bytes ++ (decAddr (unitAt f 1)).bytes ++
          [BitVec.ofNat 8 ((k - 1) / 256), BitVec.ofNat 8 (k - 1)] ++
          (List.range (k - 1)).flatMap (fun j => (decAddr (unitAt f (j + 2))).bytes) ++
          [c, 1, pid] ++ counted (f.drop (7 * (k + 1) + 2))) s)) ∧
      (∀ c, 1 ≤ k → f[7 * (k + 1)]? = some c → c ≠ 0x03 → c.toNat % 2 = 1 →
        exec (.parse f) s = .next (reports ((decAddr (unitAt f 0)).bytes ++ (decAddr (unitAt f 1)).bytes ++
          [BitVec.ofNat 8 ((k - 1) / 256), BitVec.ofNat 8 (k - 1)] ++
          (List.range (k - 1)).flatMap (fun j => (decAddr (unitAt f (j + 2))).bytes) ++
          [c, 0, 0] ++ counted (f.drop (7 * (k + 1) + 1))) s)))

/-- R190, R234: with FCS_MODE = CRC16_X25, a bad or missing FCS is FCS_BAD, decided before any address is walked; a body with
its good FCS is parsed as that body is parsed with FCS_MODE = NONE. -/
def Obligations.ParseChecksTheFcsFirst : Prop :=
  ∀ s : State, s.cfg.fcsMode = .crc16X25 →
    (∀ f : List Byte, f.length < 2 → exec (.parse f) s = .next (parsedFcsBad s)) ∧
    (∀ (body : List Byte) (l h : Byte), 256 * h.toNat + l.toNat ≠ (crc16X25 body).toNat →
      exec (.parse (body ++ [l, h])) s = .next (parsedFcsBad s)) ∧
    (∀ (body : List Byte) (l h : Byte), 256 * h.toNat + l.toNat = (crc16X25 body).toNat →
      ∃ t, exec (.parse body) { s with cfg := { s.cfg with fcsMode := .none } } = .next t ∧
        exec (.parse (body ++ [l, h])) s = .next { t with cfg := s.cfg })

/-- R200: CRC-16/X.25 as its loop over bytes and bits, and its check value. -/
def Obligations.CrcFollowsItsDefinition : Prop :=
  (∀ bytes : List Byte, crc16X25 bytes =
    (bytes.foldl (fun (r : Word16) b =>
      (fun r : Word16 => if r.toNat % 2 = 1 then (r >>> 1) ^^^ 0x8408 else r >>> 1)^[8] (r ^^^ b.setWidth 16)) 0xFFFF) ^^^ 0xFFFF) ∧
  crc16X25 [0x31, 0x32, 0x33, 0x34, 0x35, 0x36, 0x37, 0x38, 0x39] = 0x906E

/-- R201, R202: `fcs_ok` by its definition (at least two bytes, the last two the CRC of the rest, low byte first), and the
equivalent test: the register over all of the sequence, without the final XOR, is the residue 0xF0B8. -/
def Obligations.FcsResidueIsEquivalent : Prop :=
  ∀ f : List Byte,
    (fcsOk f = true ↔ ∃ (body : List Byte) (l h : Byte), f = body ++ [l, h] ∧ 256 * h.toNat + l.toNat = (crc16X25 body).toNat) ∧
    (fcsOk f = true ↔ crcRegister f = 0xF0B8)

/-- R97, R204, R205: FCS_CALC reports the FCS big-endian; FCS_CHECK reports whether the last two bytes are the FCS of the rest,
low byte first, and that FCS; both whatever FCS_MODE is, and neither changes a counter. -/
def Obligations.FcsCommandsReport : Prop :=
  ∀ (data : List Byte) (s : State),
    exec (.fcsCalc data) s =
      .next (reports [BitVec.ofNat 8 ((crc16X25 data).toNat / 256), BitVec.ofNat 8 ((crc16X25 data).toNat % 256)] s) ∧
    (data.length < 2 → exec (.fcsCheck data) s = .next (reports [0, 0, 0] s)) ∧
    (∀ (body : List Byte) (l h : Byte), data = body ++ [l, h] →
      exec (.fcsCheck data) s =
        .next (reports [if 256 * h.toNat + l.toNat = (crc16X25 body).toNat then 1 else 0,
          BitVec.ofNat 8 ((crc16X25 body).toNat / 256), BitVec.ofNat 8 ((crc16X25 body).toNat % 256)] s))

/-- R99, R195: what CLASSIFY reports for every control byte, by the source's table; and the control row of the byte has the
same effect. (That a wire row is an instruction of its own is the model's, log entry 2.) -/
def Obligations.ClassifyFollowsTheTable : Prop :=
  ∀ (c : Byte) (s : State), exec (decodeCtl c) s = exec (.classify c) s ∧ exec (.classify c) s = .next (reports
    (if c = 0x03 then [0, 0, 0, 2, 0x55, 0x49]
     else if c = 0x2F then [1, 0, 0, 4, 0x53, 0x41, 0x42, 0x4D]
     else if c = 0x63 then [2, 0, 0, 2, 0x55, 0x41]
     else if c = 0x43 then [3, 0, 0, 4, 0x44, 0x49, 0x53, 0x43]
     else if c = 0x0F then [4, 0, 0, 2, 0x44, 0x4D]
     else if c &&& 1 = 0 then [5, (c >>> 1) &&& 7, (c >>> 5) &&& 7, 1, 0x49]
     else if c &&& 15 = 1 then [6, 0, (c >>> 5) &&& 7, 2, 0x52, 0x52]
     else if c &&& 15 = 5 then [7, 0, (c >>> 5) &&& 7, 3, 0x52, 0x4E, 0x52]
     else if c &&& 15 = 9 then [8, 0, (c >>> 5) &&& 7, 3, 0x52, 0x45, 0x4A]
     else if c &&& 15 = 13 then [9, 0, (c >>> 5) &&& 7, 7, 0x75, 0x6E, 0x6B, 0x6E, 0x6F, 0x77, 0x6E]
     else [10, 0, 0, 8, 0x43, 0x54, 0x4C, 0x3D, 0x30, 0x78,
       if c.toNat / 16 < 10 then BitVec.ofNat 8 (0x30 + c.toNat / 16) else BitVec.ofNat 8 (0x41 + (c.toNat / 16 - 10)),
       if c.toNat % 16 < 10 then BitVec.ofNat 8 (0x30 + c.toNat % 16) else BitVec.ofNat 8 (0x41 + (c.toNat % 16 - 10))]) s)

/-- R99: what each control row reports, by its operands. (That a wire row is an instruction of its own is the model's, log
entry 2.) -/
def Obligations.ControlRowsReport : Prop :=
  ∀ (ns nr : Bits3) (bit4 : Bool) (s : State),
    exec .ctlUi s = .next (reports [0, 0, 0, 2, 0x55, 0x49] s) ∧
    exec .ctlSabm s = .next (reports [1, 0, 0, 4, 0x53, 0x41, 0x42, 0x4D] s) ∧
    exec .ctlUa s = .next (reports [2, 0, 0, 2, 0x55, 0x41] s) ∧
    exec .ctlDisc s = .next (reports [3, 0, 0, 4, 0x44, 0x49, 0x53, 0x43] s) ∧
    exec .ctlDm s = .next (reports [4, 0, 0, 2, 0x44, 0x4D] s) ∧
    exec (.ctlI ns nr bit4) s = .next (reports [5, BitVec.ofNat 8 ns.toNat, BitVec.ofNat 8 nr.toNat, 1, 0x49] s) ∧
    exec (.ctlRr nr bit4) s = .next (reports [6, 0, BitVec.ofNat 8 nr.toNat, 2, 0x52, 0x52] s) ∧
    exec (.ctlRnr nr bit4) s = .next (reports [7, 0, BitVec.ofNat 8 nr.toNat, 3, 0x52, 0x4E, 0x52] s) ∧
    exec (.ctlRej nr bit4) s = .next (reports [8, 0, BitVec.ofNat 8 nr.toNat, 3, 0x52, 0x45, 0x4A] s) ∧
    exec (.ctlSUnknown nr bit4) s =
      .next (reports [9, 0, BitVec.ofNat 8 nr.toNat, 7, 0x75, 0x6E, 0x6B, 0x6E, 0x6F, 0x77, 0x6E] s) ∧
    ∀ c : Byte, exec (.ctlOther c) s = .next (reports [10, 0, 0, 8, 0x43, 0x54, 0x4C, 0x3D, 0x30, 0x78,
      if c.toNat / 16 < 10 then BitVec.ofNat 8 (0x30 + c.toNat / 16) else BitVec.ofNat 8 (0x41 + (c.toNat / 16 - 10)),
      if c.toNat % 16 < 10 then BitVec.ofNat 8 (0x30 + c.toNat % 16) else BitVec.ofNat 8 (0x41 + (c.toNat % 16 - 10))] s)

/-- The number of control bytes of each class, derived from R195 (R196 marks the count [derived]). -/
def Obligations.ClassCounts : Prop :=
  (∀ k ∈ [ControlClass.ui, .sabm, .ua, .disc, .dm],
    ((List.range 256).countP fun n => (classify (BitVec.ofNat 8 n)).cls == k) = 1) ∧
  ((List.range 256).countP fun n => (classify (BitVec.ofNat 8 n)).cls == .i) = 128 ∧
  (∀ k ∈ [ControlClass.rr, .rnr, .rej, .sUnknown],
    ((List.range 256).countP fun n => (classify (BitVec.ofNat 8 n)).cls == k) = 16) ∧
  ((List.range 256).countP fun n => (classify (BitVec.ofNat 8 n)).cls == .other) = 59

/-! ### Status -/

/-- R97, R220, R221: CTR_READ reports one counter big-endian and changes nothing else; CTR_CLEAR sets all five to 0, after which
every CTR_READ reports 0. -/
def Obligations.CounterCommands : Prop :=
  (∀ (n : CtrId) (s : State), exec (.ctrRead n) s =
    .next (reports [BitVec.ofNat 8 ((s.ctr.get n).toNat / 256), BitVec.ofNat 8 ((s.ctr.get n).toNat % 256)] s)) ∧
  (∀ s : State, exec .ctrClear s = .next (reports [] { s with ctr := ⟨0, 0, 0, 0, 0⟩ })) ∧
  (∀ (n : CtrId) (s t : State), exec .ctrClear s = .next t → exec (.ctrRead n) t = .next (reports [0, 0] t))
end

