-- ==== Sys2Proof/Laws/State.lean ====
section
/-! SUPPORT. One lemma per field per update of State, true by rfl, so that no later proof unfolds a record update; and the
counter file's reads after an increment. -/

namespace Sys2Proof.Machine

@[simp] theorem complete_cfg (r : ResultRecord) (s : State) : (complete r s).cfg = s.cfg := rfl
@[simp] theorem complete_rxMode (r : ResultRecord) (s : State) : (complete r s).rxMode = s.rxMode := rfl
@[simp] theorem complete_rxEsc (r : ResultRecord) (s : State) : (complete r s).rxEsc = s.rxEsc := rfl
@[simp] theorem complete_rxBuf (r : ResultRecord) (s : State) : (complete r s).rxBuf = s.rxBuf := rfl
@[simp] theorem complete_rxOvf (r : ResultRecord) (s : State) : (complete r s).rxOvf = s.rxOvf := rfl
@[simp] theorem complete_ctr (r : ResultRecord) (s : State) : (complete r s).ctr = s.ctr := rfl
@[simp] theorem complete_txLine (r : ResultRecord) (s : State) : (complete r s).txLine = s.txLine := rfl
@[simp] theorem complete_rxOut (r : ResultRecord) (s : State) : (complete r s).rxOut = s.rxOut := rfl
@[simp] theorem complete_results (r : ResultRecord) (s : State) : (complete r s).results = s.results ++ [r] := rfl
@[simp] theorem complete_inputs (r : ResultRecord) (s : State) : (complete r s).inputs = s.inputs := rfl

@[simp] theorem completeOk_cfg (data : List Byte) (s : State) : (completeOk data s).cfg = s.cfg := rfl
@[simp] theorem completeOk_rxMode (data : List Byte) (s : State) : (completeOk data s).rxMode = s.rxMode := rfl
@[simp] theorem completeOk_rxEsc (data : List Byte) (s : State) : (completeOk data s).rxEsc = s.rxEsc := rfl
@[simp] theorem completeOk_rxBuf (data : List Byte) (s : State) : (completeOk data s).rxBuf = s.rxBuf := rfl
@[simp] theorem completeOk_rxOvf (data : List Byte) (s : State) : (completeOk data s).rxOvf = s.rxOvf := rfl
@[simp] theorem completeOk_ctr (data : List Byte) (s : State) : (completeOk data s).ctr = s.ctr := rfl
@[simp] theorem completeOk_txLine (data : List Byte) (s : State) : (completeOk data s).txLine = s.txLine := rfl
@[simp] theorem completeOk_rxOut (data : List Byte) (s : State) : (completeOk data s).rxOut = s.rxOut := rfl
@[simp] theorem completeOk_results (data : List Byte) (s : State) : (completeOk data s).results = s.results ++ [⟨.ok, data⟩] := rfl
@[simp] theorem completeOk_inputs (data : List Byte) (s : State) : (completeOk data s).inputs = s.inputs := rfl

@[simp] theorem raiseFault_cfg (f : FaultCode) (s : State) : (raiseFault f s).cfg = s.cfg := rfl
@[simp] theorem raiseFault_rxMode (f : FaultCode) (s : State) : (raiseFault f s).rxMode = s.rxMode := rfl
@[simp] theorem raiseFault_rxEsc (f : FaultCode) (s : State) : (raiseFault f s).rxEsc = s.rxEsc := rfl
@[simp] theorem raiseFault_rxBuf (f : FaultCode) (s : State) : (raiseFault f s).rxBuf = s.rxBuf := rfl
@[simp] theorem raiseFault_rxOvf (f : FaultCode) (s : State) : (raiseFault f s).rxOvf = s.rxOvf := rfl
@[simp] theorem raiseFault_ctr (f : FaultCode) (s : State) : (raiseFault f s).ctr = s.ctr := rfl
@[simp] theorem raiseFault_txLine (f : FaultCode) (s : State) : (raiseFault f s).txLine = s.txLine := rfl
@[simp] theorem raiseFault_rxOut (f : FaultCode) (s : State) : (raiseFault f s).rxOut = s.rxOut := rfl
@[simp] theorem raiseFault_results (f : FaultCode) (s : State) : (raiseFault f s).results = s.results ++ [⟨.fault f, []⟩] := rfl
@[simp] theorem raiseFault_inputs (f : FaultCode) (s : State) : (raiseFault f s).inputs = s.inputs := rfl

@[simp] theorem emit_cfg (bytes : List Byte) (s : State) : (emit bytes s).cfg = s.cfg := rfl
@[simp] theorem emit_rxMode (bytes : List Byte) (s : State) : (emit bytes s).rxMode = s.rxMode := rfl
@[simp] theorem emit_rxEsc (bytes : List Byte) (s : State) : (emit bytes s).rxEsc = s.rxEsc := rfl
@[simp] theorem emit_rxBuf (bytes : List Byte) (s : State) : (emit bytes s).rxBuf = s.rxBuf := rfl
@[simp] theorem emit_rxOvf (bytes : List Byte) (s : State) : (emit bytes s).rxOvf = s.rxOvf := rfl
@[simp] theorem emit_ctr (bytes : List Byte) (s : State) : (emit bytes s).ctr = s.ctr := rfl
@[simp] theorem emit_txLine (bytes : List Byte) (s : State) : (emit bytes s).txLine = s.txLine ++ bytes := rfl
@[simp] theorem emit_rxOut (bytes : List Byte) (s : State) : (emit bytes s).rxOut = s.rxOut := rfl
@[simp] theorem emit_results (bytes : List Byte) (s : State) : (emit bytes s).results = s.results := rfl
@[simp] theorem emit_inputs (bytes : List Byte) (s : State) : (emit bytes s).inputs = s.inputs := rfl

@[simp] theorem deliver_cfg (port : Nibble) (payload : List Byte) (s : State) : (deliver port payload s).cfg = s.cfg := rfl
@[simp] theorem deliver_rxMode (port : Nibble) (payload : List Byte) (s : State) : (deliver port payload s).rxMode = s.rxMode := rfl
@[simp] theorem deliver_rxEsc (port : Nibble) (payload : List Byte) (s : State) : (deliver port payload s).rxEsc = s.rxEsc := rfl
@[simp] theorem deliver_rxBuf (port : Nibble) (payload : List Byte) (s : State) : (deliver port payload s).rxBuf = s.rxBuf := rfl
@[simp] theorem deliver_rxOvf (port : Nibble) (payload : List Byte) (s : State) : (deliver port payload s).rxOvf = s.rxOvf := rfl
@[simp] theorem deliver_ctr (port : Nibble) (payload : List Byte) (s : State) : (deliver port payload s).ctr = s.ctr := rfl
@[simp] theorem deliver_txLine (port : Nibble) (payload : List Byte) (s : State) : (deliver port payload s).txLine = s.txLine := rfl
@[simp] theorem deliver_rxOut (port : Nibble) (payload : List Byte) (s : State) : (deliver port payload s).rxOut = s.rxOut ++ [⟨port, payload⟩] := rfl
@[simp] theorem deliver_results (port : Nibble) (payload : List Byte) (s : State) : (deliver port payload s).results = s.results := rfl
@[simp] theorem deliver_inputs (port : Nibble) (payload : List Byte) (s : State) : (deliver port payload s).inputs = s.inputs := rfl

@[simp] theorem ctrInc_cfg (n : CtrId) (s : State) : (ctrInc n s).cfg = s.cfg := rfl
@[simp] theorem ctrInc_rxMode (n : CtrId) (s : State) : (ctrInc n s).rxMode = s.rxMode := rfl
@[simp] theorem ctrInc_rxEsc (n : CtrId) (s : State) : (ctrInc n s).rxEsc = s.rxEsc := rfl
@[simp] theorem ctrInc_rxBuf (n : CtrId) (s : State) : (ctrInc n s).rxBuf = s.rxBuf := rfl
@[simp] theorem ctrInc_rxOvf (n : CtrId) (s : State) : (ctrInc n s).rxOvf = s.rxOvf := rfl
@[simp] theorem ctrInc_ctr (n : CtrId) (s : State) : (ctrInc n s).ctr = s.ctr.inc n := rfl
@[simp] theorem ctrInc_txLine (n : CtrId) (s : State) : (ctrInc n s).txLine = s.txLine := rfl
@[simp] theorem ctrInc_rxOut (n : CtrId) (s : State) : (ctrInc n s).rxOut = s.rxOut := rfl
@[simp] theorem ctrInc_results (n : CtrId) (s : State) : (ctrInc n s).results = s.results := rfl
@[simp] theorem ctrInc_inputs (n : CtrId) (s : State) : (ctrInc n s).inputs = s.inputs := rfl

@[simp] theorem lineReset_cfg (s : State) : (lineReset s).cfg = s.cfg := rfl
@[simp] theorem lineReset_rxMode (s : State) : (lineReset s).rxMode = .hunt := rfl
@[simp] theorem lineReset_rxEsc (s : State) : (lineReset s).rxEsc = false := rfl
@[simp] theorem lineReset_rxBuf (s : State) : (lineReset s).rxBuf = [] := rfl
@[simp] theorem lineReset_rxOvf (s : State) : (lineReset s).rxOvf = false := rfl
@[simp] theorem lineReset_ctr (s : State) : (lineReset s).ctr = s.ctr := rfl
@[simp] theorem lineReset_txLine (s : State) : (lineReset s).txLine = s.txLine := rfl
@[simp] theorem lineReset_rxOut (s : State) : (lineReset s).rxOut = s.rxOut := rfl
@[simp] theorem lineReset_results (s : State) : (lineReset s).results = s.results := rfl
@[simp] theorem lineReset_inputs (s : State) : (lineReset s).inputs = s.inputs := rfl

@[simp] theorem openFrame_cfg (s : State) : (openFrame s).cfg = s.cfg := rfl
@[simp] theorem openFrame_rxMode (s : State) : (openFrame s).rxMode = .frame := rfl
@[simp] theorem openFrame_rxEsc (s : State) : (openFrame s).rxEsc = false := rfl
@[simp] theorem openFrame_rxBuf (s : State) : (openFrame s).rxBuf = [] := rfl
@[simp] theorem openFrame_rxOvf (s : State) : (openFrame s).rxOvf = false := rfl
@[simp] theorem openFrame_ctr (s : State) : (openFrame s).ctr = s.ctr := rfl
@[simp] theorem openFrame_txLine (s : State) : (openFrame s).txLine = s.txLine := rfl
@[simp] theorem openFrame_rxOut (s : State) : (openFrame s).rxOut = s.rxOut := rfl
@[simp] theorem openFrame_results (s : State) : (openFrame s).results = s.results := rfl
@[simp] theorem openFrame_inputs (s : State) : (openFrame s).inputs = s.inputs := rfl

@[simp] theorem closeData_cfg (port : Nibble) (payload : List Byte) (s : State) : (closeData port payload s).cfg = s.cfg := rfl
@[simp] theorem closeData_rxMode (port : Nibble) (payload : List Byte) (s : State) : (closeData port payload s).rxMode = s.rxMode := rfl
@[simp] theorem closeData_rxEsc (port : Nibble) (payload : List Byte) (s : State) : (closeData port payload s).rxEsc = s.rxEsc := rfl
@[simp] theorem closeData_rxBuf (port : Nibble) (payload : List Byte) (s : State) : (closeData port payload s).rxBuf = s.rxBuf := rfl
@[simp] theorem closeData_rxOvf (port : Nibble) (payload : List Byte) (s : State) : (closeData port payload s).rxOvf = s.rxOvf := rfl
@[simp] theorem closeData_ctr (port : Nibble) (payload : List Byte) (s : State) : (closeData port payload s).ctr = s.ctr.inc .rxData := rfl
@[simp] theorem closeData_txLine (port : Nibble) (payload : List Byte) (s : State) : (closeData port payload s).txLine = s.txLine := rfl
@[simp] theorem closeData_rxOut (port : Nibble) (payload : List Byte) (s : State) : (closeData port payload s).rxOut = s.rxOut ++ [⟨port, payload⟩] := rfl
@[simp] theorem closeData_results (port : Nibble) (payload : List Byte) (s : State) : (closeData port payload s).results = s.results := rfl
@[simp] theorem closeData_inputs (port : Nibble) (payload : List Byte) (s : State) : (closeData port payload s).inputs = s.inputs := rfl

@[simp] theorem closeNondata_cfg (s : State) : (closeNondata s).cfg = s.cfg := rfl
@[simp] theorem closeNondata_rxMode (s : State) : (closeNondata s).rxMode = s.rxMode := rfl
@[simp] theorem closeNondata_rxEsc (s : State) : (closeNondata s).rxEsc = s.rxEsc := rfl
@[simp] theorem closeNondata_rxBuf (s : State) : (closeNondata s).rxBuf = s.rxBuf := rfl
@[simp] theorem closeNondata_rxOvf (s : State) : (closeNondata s).rxOvf = s.rxOvf := rfl
@[simp] theorem closeNondata_ctr (s : State) : (closeNondata s).ctr = s.ctr.inc .rxNondata := rfl
@[simp] theorem closeNondata_txLine (s : State) : (closeNondata s).txLine = s.txLine := rfl
@[simp] theorem closeNondata_rxOut (s : State) : (closeNondata s).rxOut = s.rxOut := rfl
@[simp] theorem closeNondata_results (s : State) : (closeNondata s).results = s.results := rfl
@[simp] theorem closeNondata_inputs (s : State) : (closeNondata s).inputs = s.inputs := rfl

@[simp] theorem applyReset_cfg (s : State) : (applyReset s).cfg = s.cfg := rfl
@[simp] theorem applyReset_rxMode (s : State) : (applyReset s).rxMode = .hunt := rfl
@[simp] theorem applyReset_rxEsc (s : State) : (applyReset s).rxEsc = false := rfl
@[simp] theorem applyReset_rxBuf (s : State) : (applyReset s).rxBuf = [] := rfl
@[simp] theorem applyReset_rxOvf (s : State) : (applyReset s).rxOvf = false := rfl
@[simp] theorem applyReset_ctr (s : State) : (applyReset s).ctr = .zero := rfl
@[simp] theorem applyReset_txLine (s : State) : (applyReset s).txLine = [] := rfl
@[simp] theorem applyReset_rxOut (s : State) : (applyReset s).rxOut = [] := rfl
@[simp] theorem applyReset_results (s : State) : (applyReset s).results = [] := rfl
@[simp] theorem applyReset_inputs (s : State) : (applyReset s).inputs = s.inputs := rfl

theorem ctr_get_inc_self (c : Counters) (n : CtrId) : (c.inc n).get n = c.get n + 1 := by
  cases n <;> rfl

theorem ctr_get_inc_other (c : Counters) (n m : CtrId) (h : m ≠ n) : (c.inc n).get m = c.get m := by
  cases n <;> cases m <;> first | rfl | exact absurd rfl h

@[simp] theorem ctr_get_zero (n : CtrId) : Counters.zero.get n = 0 := by
  cases n <;> rfl

theorem counters_ext (c d : Counters) (h : ∀ n, c.get n = d.get n) : c = d := by
  obtain ⟨c0, c1, c2, c3, c4⟩ := c
  obtain ⟨d0, d1, d2, d3, d4⟩ := d
  have h0 : c0 = d0 := h .rxData
  have h1 : c1 = d1 := h .rxNondata
  have h2 : c2 = d2 := h .rxOverrun
  have h3 : c3 = d3 := h .parseNull
  have h4 : c4 = d4 := h .fcsBad
  subst h0 h1 h2 h3 h4
  rfl

/-- Increments of two counters commute (R24). -/
theorem ctr_inc_comm (c : Counters) (n m : CtrId) : (c.inc n).inc m = (c.inc m).inc n := by
  cases n <;> cases m <;> rfl

end Sys2Proof.Machine
end

