-- ==== Sys2Proof/Laws/Ax25.lean ====
section
/-! SUPPORT. The AX.25 codec's operations: lengths of the encoder's output, an encoded address as one unit of the decoder, the
walk over units, and the FCS register over a concatenation. -/

namespace Sys2Proof.Machine

/-! ### Encoder -/

@[simp] theorem pad6_length (callsign : List Byte) : (pad6 callsign).length = 6 := by
  simp [pad6]

@[simp] theorem encAddr_length (a : Addr) (last : Bool) : (encAddr a last).length = 7 := by
  simp [encAddr]

@[simp] theorem encAddrs_length (addrs : List Addr) : (encAddrs addrs).length = 7 * addrs.length := by
  induction addrs with
  | nil => rfl
  | cons a more ih =>
    cases more with
    | nil => simp [encAddrs]
    | cons b rest => simp [encAddrs] at ih ⊢; omega

@[simp] theorem hdr_length (src dest : Addr) (path : List Addr) : (hdr src dest path).length = 7 * (2 + path.length) := by
  simp [hdr]; omega

theorem encAddrs_cons_cons (a b : Addr) (more : List Addr) :
    encAddrs (a :: b :: more) = encAddr a false ++ encAddrs (b :: more) := rfl

theorem encAddrs_singleton (a : Addr) : encAddrs [a] = encAddr a true := rfl

/-- The SSID byte carries the SSID in bits 4:1, the last bit in bit 0 and 011 in bits 7:5 (R74). -/
theorem ssidByte_fields (ssid : Nibble) (last : Bool) :
    (ssidByte ssid last).extractLsb' 1 4 = ssid ∧ (ssidByte ssid last).getLsbD 0 = last ∧
      (ssidByte ssid last).extractLsb' 5 3 = 3 := by
  revert ssid last; decide

/-- Six bytes, written out. -/
theorem eq_six_of_length {l : List Byte} (h : l.length = 6) :
    ∃ a b c d e f, l = [a, b, c, d, e, f] := by
  match l, h with
  | [a, b, c, d, e, f], _ => exact ⟨a, b, c, d, e, f, rfl⟩

/-- An encoded address is one unit; the decoder reads its SSID, its last bit and `crh` 3 back, whatever the callsign. -/
theorem encAddr_unit (a : Addr) (last : Bool) :
    ∃ u : AddrUnit, encAddr a last = u.bytes ∧ (decAddr u).ssid = a.ssid ∧ (decAddr u).last = last ∧ (decAddr u).crh = 3 := by
  obtain ⟨c0, c1, c2, c3, c4, c5, h⟩ := eq_six_of_length (l := (pad6 a.callsign).map shiftChar) (by simp)
  obtain ⟨h1, h2, h3⟩ := ssidByte_fields a.ssid last
  exact ⟨⟨c0, c1, c2, c3, c4, c5, ssidByte a.ssid last⟩, by simp [encAddr, h, AddrUnit.bytes], h1, h2, h3⟩

/-! ### Decoder -/

/-- The walk over one unit (R190). -/
theorem walkUnits_unit (u : AddrUnit) (rest : List Byte) :
    walkUnits (u.bytes ++ rest) =
      if (decAddr u).last then some ([decAddr u], rest)
      else match walkUnits rest with
        | some (more, r) => some (decAddr u :: more, r)
        | none => none := rfl

/-- A walk that succeeds used up a positive number of whole units, as many as it answers addresses. -/
theorem walkUnits_length (f : List Byte) (addrs : List DecodedAddr) (rest : List Byte)
    (h : walkUnits f = some (addrs, rest)) : addrs ≠ [] ∧ f.length = 7 * addrs.length + rest.length := by
  induction f using walkUnits.induct generalizing addrs rest with
  | case1 c0 c1 c2 c3 c4 c5 b6 r a hlast =>
    simp only [walkUnits] at h
    rw [if_pos hlast] at h
    simp only [Option.some.injEq, Prod.mk.injEq] at h
    obtain ⟨rfl, rfl⟩ := h
    simp; omega
  | case2 c0 c1 c2 c3 c4 c5 b6 r a hlast more r' hw ih =>
    simp only [walkUnits] at h
    rw [if_neg hlast, hw] at h
    simp only [Option.some.injEq, Prod.mk.injEq] at h
    obtain ⟨rfl, rfl⟩ := h
    have := (ih more r' hw).2
    simp; omega
  | case3 c0 c1 c2 c3 c4 c5 b6 r a hlast hw =>
    simp only [walkUnits] at h
    rw [if_neg hlast, hw] at h
    simp at h
  | case4 f hf =>
    unfold walkUnits at h
    split at h
    · exact absurd rfl (hf _ _ _ _ _ _ _ _)
    · simp at h

/-- Trailing spaces are dropped; what ends in no space is kept. -/
theorem stripSpaces_append_spaces (bytes : List Byte) (k : Nat) (h : bytes.getLast? ≠ some 0x20) :
    stripSpaces (bytes ++ List.replicate k 0x20) = bytes := by
  have hd : ∀ l : List Byte, l.head? ≠ some 0x20 → (List.replicate k (0x20 : Byte) ++ l).dropWhile (· == 0x20) = l := by
    intro l hl
    induction k with
    | zero => cases l <;> simp_all
    | succ k ih => simpa [List.replicate_succ] using ih
  have := hd bytes.reverse (by simpa using h)
  simp only [stripSpaces, List.reverse_append, List.reverse_replicate]
  rw [this, List.reverse_reverse]

/-- A character below 0x80 survives the shift there and back (R74, R180). -/
theorem shiftChar_shiftRight (c : Byte) (h : c.toNat < 128) : shiftChar c >>> 1 = c := by
  apply BitVec.eq_of_toNat_eq
  simp [shiftChar, Nat.shiftLeft_eq, Nat.shiftRight_eq_div_pow]
  omega

/-! ### FCS -/

theorem crcRegister_append (a b : List Byte) : crcRegister (a ++ b) = b.foldl crcByte (crcRegister a) := by
  simp [crcRegister]

theorem fcsBody_append_two (body : List Byte) (l h : Byte) : fcsBody (body ++ [l, h]) = body := by
  simp [fcsBody]

/-- `fcs_ok` on a body and two bytes (R202). -/
theorem fcsOk_append_two (body : List Byte) (l h : Byte) :
    fcsOk (body ++ [l, h]) = ([l, h] == fcsWire (crc16X25 body)) := by
  simp [fcsOk, fcsBody_append_two]

/-- A sequence of at least two bytes is a body and two bytes. -/
theorem eq_append_two {bytes : List Byte} (h : 2 ≤ bytes.length) : ∃ body l hi, bytes = body ++ [l, hi] := by
  have hd : (bytes.drop (bytes.length - 2)).length = 2 := by simp; omega
  match hdrop : bytes.drop (bytes.length - 2), hd with
  | [l, hi], _ => exact ⟨bytes.take (bytes.length - 2), l, hi, by rw [← hdrop, List.take_append_drop]⟩

end Sys2Proof.Machine
end

