-- ==== Sys2Proof/Laws/Decode.lean ====
section
/-! SUPPORT. The field readers of the decoder: each reads back the field the encoder writes and leaves the rest of the record,
and each that succeeds has read exactly such a field. -/

namespace Sys2Proof

/-! ### The sequencing of fields -/

@[simp] theorem andThen_ok {α β : Type} (a : α) (rest : List Byte) (k : α → List Byte → Except FaultCode β) :
    andThen (.ok (a, rest)) k = k a rest := rfl

@[simp] theorem andThen_error {α β : Type} (f : FaultCode) (k : α → List Byte → Except FaultCode β) :
    andThen (.error f : Read α) k = .error f := rfl

/-- A sequence of fields succeeds exactly when the first does and the rest does on what it leaves. -/
theorem andThen_eq_ok {α β : Type} (x : Read α) (k : α → List Byte → Except FaultCode β) (b : β) :
    andThen x k = .ok b ↔ ∃ a rest, x = .ok (a, rest) ∧ k a rest = .ok b := by
  match x with
  | .ok (a, rest) => simp
  | .error f => simp

/-- A sequence of fields fails where the first failing field fails (R84). -/
theorem andThen_eq_error {α β : Type} (x : Read α) (k : α → List Byte → Except FaultCode β) (f : FaultCode) :
    andThen x k = .error f ↔ x = .error f ∨ ∃ a rest, x = .ok (a, rest) ∧ k a rest = .error f := by
  match x with
  | .ok (a, rest) => simp
  | .error g => simp

@[simp] theorem finish_nil (i : Instr) : finish i [] = .ok i := rfl

theorem finish_eq_ok (i j : Instr) (rest : List Byte) : finish i rest = .ok j ↔ rest = [] ∧ i = j := by
  cases rest <;> simp [finish]

/-! ### Numbers as bytes -/

theorem byteOf_toNat (n : Nat) : (byteOf n).toNat = n % 256 := by
  simp [byteOf]

theorem byteOf_toNat_of_lt (n : Nat) (h : n < 256) : (byteOf n).toNat = n := by
  rw [byteOf_toNat]; omega

theorem byteOf_byte_toNat (b : Byte) : byteOf b.toNat = b := by
  apply BitVec.eq_of_toNat_eq
  have := b.isLt
  rw [byteOf_toNat]; omega

/-! ### Each reader on the field the encoder writes -/

@[simp] theorem readU8_cons (b : Byte) (rest : List Byte) : readU8 (b :: rest) = .ok (b, rest) := rfl

theorem readBytes_append (data rest : List Byte) : readBytes data.length (data ++ rest) = .ok (data, rest) := by
  simp [readBytes]

theorem readBytes_append_of_eq (n : Nat) (data rest : List Byte) (h : n = data.length) :
    readBytes n (data ++ rest) = .ok (data, rest) := by
  subst h; exact readBytes_append data rest

theorem readU16_u16Bytes (n : Nat) (rest : List Byte) (h : n < 65536) : readU16 (u16Bytes n ++ rest) = .ok (n, rest) := by
  have : (byteOf (n / 256)).toNat * 256 + (byteOf n).toNat = n := by
    rw [byteOf_toNat, byteOf_toNat]; omega
  simp [u16Bytes, readU16, this]

theorem readBytes16_field (data rest : List Byte) (h : data.length < 65536) :
    readBytes16 (bytes16Field data ++ rest) = .ok (data, rest) := by
  simp only [readBytes16, bytes16Field, List.append_assoc]
  rw [readU16_u16Bytes _ _ h, andThen_ok, readBytes_append]

theorem readS32_s32Bytes (ms : Word32) (rest : List Byte) : readS32 (s32Bytes ms ++ rest) = .ok (ms, rest) := by
  have : ms.extractLsb' 24 8 ++ ms.extractLsb' 16 8 ++ ms.extractLsb' 8 8 ++ ms.extractLsb' 0 8 = ms := by
    apply BitVec.eq_of_getLsbD_eq
    intro i hi
    simp only [BitVec.getLsbD_append, BitVec.getLsbD_extractLsb']
    split_ifs
    all_goals rw [decide_eq_true (by omega), Bool.true_and]; congr 1; omega
  simp only [s32Bytes, List.cons_append, List.nil_append, readS32, this]

theorem readBit_field (b : Bool) (rest : List Byte) : readBit (bitField b ++ rest) = .ok (b, rest) := by
  cases b <;> simp [readBit, bitField]

theorem readRaw7_bytes (u : AddrUnit) (rest : List Byte) : readRaw7 (u.bytes ++ rest) = .ok (u, rest) := rfl

theorem readSeq_cons (n : Bits3) (rest : List Byte) : readSeq (n.setWidth 8 :: rest) = .ok (n, rest) := by
  have hn := n.isLt
  have h : ¬ 7 < (n.setWidth 8).toNat := by simp; omega
  have h' : (n.setWidth 8).setWidth 3 = n := by
    apply BitVec.eq_of_toNat_eq; simp
  simp only [readSeq, readU8_cons, andThen_ok, if_neg h, h']

theorem ctrOfNumber_number (n : CtrId) : ctrOfNumber n.number = some n := by
  cases n <;> decide

theorem readCtr_cons (n : CtrId) (rest : List Byte) : readCtr (n.number :: rest) = .ok (n, rest) := by
  simp [readCtr, ctrOfNumber_number]

theorem checkAddr_of_wf (a : Addr) (h : a.wf = true) : checkAddr a.callsign (a.ssid.setWidth 8) = .ok a := by
  have hs := a.ssid.isLt
  have h1 : ¬ (a.callsign.take 6).any (fun b => decide (128 ≤ b.toNat)) = true := by
    simp only [Addr.wf, Bool.and_eq_true, List.all_eq_true, decide_eq_true_eq] at h
    simp only [List.any_eq_true, decide_eq_true_eq, not_exists, not_and]
    intro b hb
    have := h.2 b hb
    omega
  have h2 : ¬ 15 < (a.ssid.setWidth 8).toNat := by simp; omega
  have h3 : (a.ssid.setWidth 8).setWidth 4 = a.ssid := by
    apply BitVec.eq_of_toNat_eq; simp
  simp only [checkAddr, if_neg h1, if_neg h2, h3]

theorem readAddr_field (a : Addr) (rest : List Byte) (h : a.wf = true) : readAddr (addrField a ++ rest) = .ok (a, rest) := by
  have hlen : a.callsign.length < 256 := by
    simp only [Addr.wf, Bool.and_eq_true, decide_eq_true_eq] at h; exact h.1
  simp only [readAddr, addrField, List.cons_append, List.append_assoc, readU8_cons, andThen_ok]
  rw [readBytes_append_of_eq _ _ _ (byteOf_toNat_of_lt _ hlen)]
  simp [checkAddr_of_wf a h]

theorem readAddrs_fields (path : List Addr) (rest : List Byte) (h : path.all Addr.wf = true) :
    readAddrs path.length (path.flatMap addrField ++ rest) = .ok (path, rest) := by
  induction path with
  | nil => rfl
  | cons a more ih =>
    simp only [List.all_cons, Bool.and_eq_true] at h
    simp only [List.length_cons, readAddrs, List.flatMap_cons, List.append_assoc]
    rw [readAddr_field a _ h.1, andThen_ok, ih h.2]
    rfl

theorem readPath_field (path : List Addr) (rest : List Byte) (h : pathWf path = true) :
    readPath (pathField path ++ rest) = .ok (path, rest) := by
  simp only [pathWf, Bool.and_eq_true, decide_eq_true_eq] at h
  have hk : path.length < 256 := by have := h.1; simp only [maxPathTx] at this; omega
  simp only [readPath, pathField, List.cons_append, readU8_cons, andThen_ok]
  rw [byteOf_toNat_of_lt _ hk, if_neg (by omega), readAddrs_fields path rest h.2]

/-- The three fields the builders share are read back together. -/
theorem readRoute_fields {β : Type} (src dest : Addr) (path : List Addr) (rest : List Byte)
    (k : Addr → Addr → List Addr → List Byte → Except FaultCode β) (h : routeWf src dest path = true) :
    readRoute (routeFields src dest path ++ rest) k = k src dest path rest := by
  simp only [routeWf, Bool.and_eq_true] at h
  simp only [readRoute, routeFields, List.append_assoc]
  rw [readAddr_field src _ h.1.1, andThen_ok, readAddr_field dest _ h.1.2, andThen_ok, readPath_field path _ h.2, andThen_ok]

theorem readData_field (make : List Byte → Instr) (data : List Byte) (h : bytes16Wf data = true) :
    readData make (bytes16Field data) = .ok (make data) := by
  have := readBytes16_field data [] (by simpa [bytes16Wf] using h)
  rw [List.append_nil] at this
  simp [readData, this]

/-! ### What a reader that succeeds has read -/

theorem readU8_eq_ok (r : List Byte) (b : Byte) (rest : List Byte) : readU8 r = .ok (b, rest) ↔ r = b :: rest := by
  cases r <;> simp [readU8]

theorem readBytes_eq_ok (n : Nat) (r data rest : List Byte) :
    readBytes n r = .ok (data, rest) ↔ r = data ++ rest ∧ data.length = n := by
  unfold readBytes
  split
  · constructor
    · intro h
      simp only [Except.ok.injEq, Prod.mk.injEq] at h
      obtain ⟨rfl, rfl⟩ := h
      exact ⟨(List.take_append_drop n r).symm, by simp; omega⟩
    · rintro ⟨rfl, rfl⟩
      simp
  · constructor
    · intro h; simp at h
    · rintro ⟨rfl, rfl⟩
      simp at *

theorem readU16_eq_ok (r : List Byte) (n : Nat) (rest : List Byte) :
    readU16 r = .ok (n, rest) ↔ r = u16Bytes n ++ rest ∧ n < 65536 := by
  constructor
  · intro h
    match r with
    | [] => simp [readU16] at h
    | [_] => simp [readU16] at h
    | hi :: lo :: r =>
      simp only [readU16, Except.ok.injEq, Prod.mk.injEq] at h
      obtain ⟨rfl, rfl⟩ := h
      have h1 := hi.isLt
      have h2 := lo.isLt
      refine ⟨?_, by omega⟩
      have e1 : byteOf ((hi.toNat * 256 + lo.toNat) / 256) = hi := by
        apply BitVec.eq_of_toNat_eq; rw [byteOf_toNat]; omega
      have e2 : byteOf (hi.toNat * 256 + lo.toNat) = lo := by
        apply BitVec.eq_of_toNat_eq; rw [byteOf_toNat]; omega
      simp [u16Bytes, e1, e2]
  · rintro ⟨rfl, h⟩
    exact readU16_u16Bytes n rest h

theorem readBytes16_eq_ok (r data rest : List Byte) :
    readBytes16 r = .ok (data, rest) ↔ r = bytes16Field data ++ rest ∧ data.length < 65536 := by
  constructor
  · intro h
    simp only [readBytes16, andThen_eq_ok] at h
    obtain ⟨n, r', h1, h2⟩ := h
    obtain ⟨rfl, hn⟩ := (readU16_eq_ok _ _ _).1 h1
    obtain ⟨rfl, rfl⟩ := (readBytes_eq_ok _ _ _ _).1 h2
    exact ⟨by simp [bytes16Field], hn⟩
  · rintro ⟨rfl, h⟩
    exact readBytes16_field data rest h

theorem checkAddr_eq_ok (callsign : List Byte) (ssid : Byte) (a : Addr) (hlen : callsign.length < 256) :
    checkAddr callsign ssid = .ok a ↔ a.callsign = callsign ∧ a.ssid.setWidth 8 = ssid ∧ a.wf = true := by
  constructor
  · intro h
    unfold checkAddr at h
    split at h
    · simp at h
    · rename_i h1
      split at h
      · simp at h
      · rename_i h2
        simp only [Except.ok.injEq] at h
        subst h
        refine ⟨rfl, ?_, ?_⟩
        · apply BitVec.eq_of_toNat_eq
          simp; omega
        · simp only [List.any_eq_true, decide_eq_true_eq, not_exists, not_and] at h1
          simp only [Addr.wf, Bool.and_eq_true, decide_eq_true_eq, List.all_eq_true]
          exact ⟨hlen, fun b hb => by have := h1 b hb; omega⟩
  · rintro ⟨rfl, rfl, h⟩
    exact checkAddr_of_wf a h

theorem readAddr_eq_ok (r : List Byte) (a : Addr) (rest : List Byte) :
    readAddr r = .ok (a, rest) ↔ r = addrField a ++ rest ∧ a.wf = true := by
  constructor
  · intro h
    simp only [readAddr, andThen_eq_ok] at h
    obtain ⟨n, r1, h1, callsign, r2, h2, ssid, r3, h3, h4⟩ := h
    rw [readU8_eq_ok] at h1 h3
    obtain ⟨e2, hl⟩ := (readBytes_eq_ok _ _ _ _).1 h2
    have hlen : callsign.length < 256 := by have := n.isLt; omega
    split at h4
    · rename_i a' hc
      simp only [Except.ok.injEq, Prod.mk.injEq] at h4
      obtain ⟨rfl, rfl⟩ := h4
      obtain ⟨rfl, hs, hw⟩ := (checkAddr_eq_ok _ _ _ hlen).1 hc
      refine ⟨?_, hw⟩
      subst h1 e2 h3
      simp [addrField, hl, hs, byteOf_byte_toNat]
    · simp at h4
  · rintro ⟨rfl, h⟩
    exact readAddr_field a rest h

theorem readAddrs_eq_ok (k : Nat) (r : List Byte) (path : List Addr) (rest : List Byte) :
    readAddrs k r = .ok (path, rest) ↔ r = path.flatMap addrField ++ rest ∧ path.length = k ∧ path.all Addr.wf = true := by
  constructor
  · induction k generalizing r path with
    | zero =>
      intro h
      simp only [readAddrs, Except.ok.injEq, Prod.mk.injEq] at h
      obtain ⟨rfl, rfl⟩ := h
      simp
    | succ k ih =>
      intro h
      simp only [readAddrs, andThen_eq_ok] at h
      obtain ⟨a, r1, h1, more, r2, h2, h3⟩ := h
      simp only [Except.ok.injEq, Prod.mk.injEq] at h3
      obtain ⟨rfl, rfl⟩ := h3
      obtain ⟨rfl, hw⟩ := (readAddr_eq_ok _ _ _).1 h1
      obtain ⟨rfl, hl, hws⟩ := ih _ _ h2
      simp [hl, hw, hws]
  · rintro ⟨rfl, rfl, h⟩
    exact readAddrs_fields path rest h

theorem readPath_eq_ok (r : List Byte) (path : List Addr) (rest : List Byte) :
    readPath r = .ok (path, rest) ↔ r = pathField path ++ rest ∧ pathWf path = true := by
  constructor
  · intro h
    simp only [readPath, andThen_eq_ok] at h
    obtain ⟨k, r1, h1, h2⟩ := h
    rw [readU8_eq_ok] at h1
    split at h2
    · simp at h2
    · obtain ⟨rfl, hl, hw⟩ := (readAddrs_eq_ok _ _ _ _).1 h2
      subst h1
      refine ⟨by simp [pathField, hl, byteOf_byte_toNat], ?_⟩
      simp only [pathWf, Bool.and_eq_true, decide_eq_true_eq]
      exact ⟨by omega, hw⟩
  · rintro ⟨rfl, h⟩
    exact readPath_field path rest h

/-! ### Operation codes (R82, R83) -/

theorem opOfByte_code (o : Op) : opOfByte o.code = some o := by
  cases o <;> decide

theorem opOfByte_eq_some (b : Byte) (o : Op) : opOfByte b = some o ↔ b = o.code := by
  constructor
  · intro h
    have := List.find?_some h
    exact (by simpa using this : o.code = b).symm
  · rintro rfl
    exact opOfByte_code o

theorem opOfByte_eq_none (b : Byte) : opOfByte b = none ↔ assignedOps.contains b = false := by
  revert b; decide

/-- A record with an assigned OP is its operands' decoding. -/
theorem decodeRecord_code (o : Op) (rest : List Byte) : decodeRecord (o.code :: rest) = decodeOperands o rest := by
  simp [decodeRecord, opOfByte_code]

end Sys2Proof
end

