-- ==== Sys2Proof/Laws/Kiss.lean ====
section
/-! SUPPORT. The KISS unit's operations: what one step of the unescaper, of the buffer, of close_frame and of RX_BYTE can do,
each said once, and the laws of escape and unescape that later proofs build on. -/

namespace Sys2Proof.Machine

/-! ### Escape and unescape -/

@[simp] theorem escape_nil : escape [] = [] := rfl

@[simp] theorem escape_cons (b : Byte) (rest : List Byte) : escape (b :: rest) = escapeByte b ++ escape rest := rfl

theorem escape_append (a b : List Byte) : escape (a ++ b) = escape a ++ escape b := by
  induction a with
  | nil => rfl
  | cons x a ih => simp [ih]

theorem escape_eq_flatMap (bytes : List Byte) : escape bytes = bytes.flatMap escapeByte := by
  induction bytes with
  | nil => rfl
  | cons b rest ih => simp [ih]

theorem fend_notMem_escapeByte (b : Byte) : fend ∉ escapeByte b := by
  unfold escapeByte
  split
  · decide
  · split
    · decide
    · simpa using fun h => absurd h.symm ‹_›

/-- The five cases of `unesc_step` (R121). -/
theorem unescStep_plain (policy : BadEsc) (b : Byte) (h : b ≠ fesc) : unescStep policy false b = (false, [b]) := by
  simp [unescStep, h]

theorem unescStep_fesc (policy : BadEsc) : unescStep policy false fesc = (true, []) := by
  simp [unescStep]

theorem unescStep_tfend (policy : BadEsc) : unescStep policy true tfend = (false, [fend]) := by
  simp [unescStep]

theorem unescStep_tfesc (policy : BadEsc) : unescStep policy true tfesc = (false, [fesc]) := by
  have : tfesc ≠ tfend := by decide
  simp [unescStep, this]

theorem unescStep_bad (policy : BadEsc) (b : Byte) (h1 : b ≠ tfend) (h2 : b ≠ tfesc) :
    unescStep policy true b =
      (false, match policy with | .pass => [b] | .drop => [] | .keep => [fesc, b]) := by
  cases policy <;> simp [unescStep, h1, h2]

/-- An unescape step produces at most two bytes (R121). -/
theorem unescStep_length (policy : BadEsc) (esc : Bool) (b : Byte) : (unescStep policy esc b).2.length ≤ 2 := by
  unfold unescStep
  cases policy <;> (repeat' split) <;> simp

@[simp] theorem unescapeFrom_nil (policy : BadEsc) (esc : Bool) : unescapeFrom policy esc [] = [] := rfl

theorem unescapeFrom_cons (policy : BadEsc) (esc : Bool) (b : Byte) (rest : List Byte) :
    unescapeFrom policy esc (b :: rest) =
      (unescStep policy esc b).2 ++ unescapeFrom policy (unescStep policy esc b).1 rest := rfl

/-- The line bytes of one payload byte are read back as that byte, with no escape pending, under every policy. -/
theorem unescapeFrom_escapeByte (policy : BadEsc) (b : Byte) (rest : List Byte) :
    unescapeFrom policy false (escapeByte b ++ rest) = b :: unescapeFrom policy false rest := by
  unfold escapeByte
  split
  · subst ‹b = fend›
    simp [unescapeFrom_cons, unescStep_fesc, unescStep_tfend]
  · split
    · subst ‹b = fesc›
      simp [unescapeFrom_cons, unescStep_fesc, unescStep_tfesc]
    · simp [unescapeFrom_cons, unescStep_plain policy b ‹_›]

/-! ### The receive buffer (R131) -/

/-- Everything `put` can do. -/
theorem put_cases (v : Byte) (s : State) :
    (s.rxBuf.length < s.cfg.rxMax ∧ put v s = { s with rxBuf := s.rxBuf ++ [v] }) ∨
    (s.cfg.rxMax ≤ s.rxBuf.length ∧ put v s = { s with rxOvf := true }) := by
  unfold put
  split
  · exact .inl ⟨‹_›, rfl⟩
  · exact .inr ⟨by omega, rfl⟩

@[simp] theorem putAll_nil (s : State) : putAll [] s = s := rfl

@[simp] theorem putAll_cons (v : Byte) (rest : List Byte) (s : State) : putAll (v :: rest) s = putAll rest (put v s) := rfl

/-- `put` writes the buffer and the overrun bit and nothing else. -/
theorem put_frame (v : Byte) (s : State) :
    ∃ buf ovf, put v s = { s with rxBuf := buf, rxOvf := ovf } := by
  rcases put_cases v s with ⟨-, h⟩ | ⟨-, h⟩
  · exact ⟨_, s.rxOvf, h⟩
  · exact ⟨s.rxBuf, _, h⟩

theorem putAll_frame (bytes : List Byte) (s : State) :
    ∃ buf ovf, putAll bytes s = { s with rxBuf := buf, rxOvf := ovf } := by
  induction bytes generalizing s with
  | nil => exact ⟨s.rxBuf, s.rxOvf, rfl⟩
  | cons v rest ih =>
    obtain ⟨b1, o1, h1⟩ := put_frame v s
    obtain ⟨b2, o2, h2⟩ := ih (put v s)
    exact ⟨b2, o2, by rw [putAll_cons, h2, h1]⟩

/-- While everything fits, `put` of a sequence is one append. -/
theorem putAll_fits (bytes : List Byte) (s : State) (h : s.rxBuf.length + bytes.length ≤ s.cfg.rxMax) :
    putAll bytes s = { s with rxBuf := s.rxBuf ++ bytes } := by
  induction bytes generalizing s with
  | nil => simp
  | cons v rest ih =>
    simp only [List.length_cons] at h
    have hput : put v s = { s with rxBuf := s.rxBuf ++ [v] } := by
      unfold put
      rw [if_pos (by omega)]
    rw [putAll_cons, hput, ih]
    · simp
    · simp; omega

/-! ### close_frame and RX_BYTE (R130, R132) -/

/-- Everything `close_frame` can do. -/
theorem closeFrame_cases (s : State) :
    (s.rxOvf = true ∧ closeFrame s = ctrInc .rxOverrun s) ∨
    (s.rxOvf = false ∧ s.rxBuf = [] ∧ closeFrame s = s) ∨
    (∃ t payload, s.rxOvf = false ∧ s.rxBuf = t :: payload ∧ typeCmd t = 0 ∧
      closeFrame s = closeData (typePort t) payload s) ∨
    (∃ t payload, s.rxOvf = false ∧ s.rxBuf = t :: payload ∧ typeCmd t ≠ 0 ∧ closeFrame s = closeNondata s) := by
  unfold closeFrame
  cases hovf : s.rxOvf with
  | true => exact .inl ⟨rfl, by simp⟩
  | false =>
    cases hbuf : s.rxBuf with
    | nil => exact .inr (.inl ⟨rfl, rfl, by simp⟩)
    | cons t payload =>
      by_cases ht : typeCmd t = 0
      · exact .inr (.inr (.inl ⟨t, payload, rfl, rfl, ht, by simp [ht]⟩))
      · exact .inr (.inr (.inr ⟨t, payload, rfl, rfl, ht, by simpa using fun h => absurd h ht⟩))

/-- Everything RX_BYTE can do, by mode and byte. -/
theorem rxByte_cases (b : Byte) (s : State) :
    (s.rxMode = .hunt ∧ b = fend ∧ rxByte b s = openFrame s) ∨
    (s.rxMode = .hunt ∧ b ≠ fend ∧ rxByte b s = s) ∨
    (s.rxMode = .frame ∧ b = fend ∧ rxByte b s = openFrame (closeFrame s)) ∨
    (s.rxMode = .frame ∧ b ≠ fend ∧
      rxByte b s = putAll (unescStep s.cfg.badEsc s.rxEsc b).2 { s with rxEsc := (unescStep s.cfg.badEsc s.rxEsc b).1 }) := by
  unfold rxByte
  cases hm : s.rxMode with
  | hunt =>
    by_cases hb : b = fend
    · exact .inl ⟨rfl, hb, by simp [hb]⟩
    · exact .inr (.inl ⟨rfl, hb, by simp [hb]⟩)
  | frame =>
    by_cases hb : b = fend
    · exact .inr (.inr (.inl ⟨rfl, hb, by simp [hb]⟩))
    · exact .inr (.inr (.inr ⟨rfl, hb, by simp [hb]⟩))

/-- RX_BYTE writes the unframer, the counters and the RX frame port, and nothing else (R130). -/
theorem rxByte_frame (b : Byte) (s : State) :
    ∃ mode esc buf ovf ctr out,
      rxByte b s = { s with rxMode := mode, rxEsc := esc, rxBuf := buf, rxOvf := ovf, ctr := ctr, rxOut := out } := by
  rcases rxByte_cases b s with ⟨-, -, h⟩ | ⟨-, -, h⟩ | ⟨-, -, h⟩ | ⟨-, -, h⟩
  · exact ⟨_, _, _, _, s.ctr, s.rxOut, h⟩
  · exact ⟨s.rxMode, s.rxEsc, s.rxBuf, s.rxOvf, s.ctr, s.rxOut, h⟩
  · rcases closeFrame_cases s with ⟨-, hc⟩ | ⟨-, -, hc⟩ | ⟨t, p, -, -, -, hc⟩ | ⟨t, p, -, -, -, hc⟩ <;> rw [h, hc]
    · exact ⟨_, _, _, _, _, s.rxOut, rfl⟩
    · exact ⟨_, _, _, _, s.ctr, s.rxOut, rfl⟩
    · exact ⟨_, _, _, _, _, _, rfl⟩
    · exact ⟨_, _, _, _, _, s.rxOut, rfl⟩
  · obtain ⟨buf, ovf, hp⟩ := putAll_frame (unescStep s.cfg.badEsc s.rxEsc b).2
      { s with rxEsc := (unescStep s.cfg.badEsc s.rxEsc b).1 }
    rw [h, hp]
    exact ⟨s.rxMode, _, buf, ovf, s.ctr, s.rxOut, rfl⟩

/-- The row of an RX byte is executed as RX_BYTE of that byte (R130). -/
theorem exec_decodeRx (mode : RxMode) (esc : Bool) (b : Byte) (s : State) :
    exec (decodeRx mode esc b) s = .next (rxByte b s) := by
  unfold decodeRx
  cases mode <;> cases esc <;> simp only [] <;> (repeat' split) <;> simp_all [exec, execRxHuntFend, execRxHuntOther,
    execRxFrameFend, execRxFrameFesc, execRxFrameOther, execRxEscTfend, execRxEscTfesc, execRxEscOther]

end Sys2Proof.Machine
end

