-- ==== Sys2Proof/Laws/PerInstr.lean ====
section
/-! SUPPORT. Two statements about instructions as syntax, one lemma per constructor: expanding a pseudo-operation gives a
well-formed instruction that is no pseudo-operation (R88), and no encoding is empty. -/

namespace Sys2Proof.Laws.ExpandIsCore

/-- The expansion of a well-formed instruction is well formed, is not a pseudo-operation, and is encoded by the same bytes. -/
def Statement (i : Instr) : Prop :=
  i.expand.format ≠ .pseudo ∧ encode i.expand = encode i ∧ (i.wf = true → i.expand.wf = true)

theorem kissSend (type : Byte) (payload : List Byte) : Statement (.kissSend type payload) := ⟨nofun, rfl, id⟩
theorem kissSetTxdelay (ms : Word32) : Statement (.kissSetTxdelay ms) := ⟨nofun, rfl, id⟩
theorem kissEscape (data : List Byte) : Statement (.kissEscape data) := ⟨nofun, rfl, id⟩
theorem kissUnescape (data : List Byte) : Statement (.kissUnescape data) := ⟨nofun, rfl, id⟩
theorem lineReset : Statement (.lineReset) := ⟨nofun, rfl, id⟩
theorem encAddr (a : Addr) (last : Bool) : Statement (.encAddr a last) := ⟨nofun, rfl, id⟩
theorem buildHeader (src dest : Addr) (path : List Addr) : Statement (.buildHeader src dest path) := ⟨nofun, rfl, id⟩
theorem buildUi (src dest : Addr) (path : List Addr) (info : List Byte) : Statement (.buildUi src dest path info) := ⟨nofun, rfl, id⟩
theorem buildU (src dest : Addr) (path : List Addr) (ctrl : Byte) : Statement (.buildU src dest path ctrl) := ⟨nofun, rfl, id⟩
theorem buildI (src dest : Addr) (path : List Addr) (ns nr : Bits3) (info : List Byte) : Statement (.buildI src dest path ns nr info) := ⟨nofun, rfl, id⟩
theorem decAddr (unit : AddrUnit) : Statement (.decAddr unit) := ⟨nofun, rfl, id⟩
theorem parse (frame : List Byte) : Statement (.parse frame) := ⟨nofun, rfl, id⟩
theorem classify (ctrl : Byte) : Statement (.classify ctrl) := ⟨nofun, rfl, id⟩
theorem fcsCalc (data : List Byte) : Statement (.fcsCalc data) := ⟨nofun, rfl, id⟩
theorem fcsCheck (data : List Byte) : Statement (.fcsCheck data) := ⟨nofun, rfl, id⟩
theorem ctrRead (n : CtrId) : Statement (.ctrRead n) := ⟨nofun, rfl, id⟩
theorem ctrClear : Statement (.ctrClear) := ⟨nofun, rfl, id⟩
theorem reservedOp (op : Byte) (rest : List Byte) : Statement (.reservedOp op rest) := ⟨nofun, rfl, id⟩
theorem buildSabm (src dest : Addr) (path : List Addr) : Statement (.buildSabm src dest path) := ⟨nofun, rfl, id⟩
theorem buildUa (src dest : Addr) (path : List Addr) : Statement (.buildUa src dest path) := ⟨nofun, rfl, id⟩
theorem buildDisc (src dest : Addr) (path : List Addr) : Statement (.buildDisc src dest path) := ⟨nofun, rfl, id⟩
theorem buildDm (src dest : Addr) (path : List Addr) : Statement (.buildDm src dest path) := ⟨nofun, rfl, id⟩
theorem kissData (port : Nibble) (payload : List Byte) : Statement (.kissData port payload) := ⟨nofun, rfl, id⟩
theorem rxHuntFend : Statement (.rxHuntFend) := ⟨nofun, rfl, id⟩
theorem rxHuntOther (b : Byte) : Statement (.rxHuntOther b) := ⟨nofun, rfl, id⟩
theorem rxFrameFend : Statement (.rxFrameFend) := ⟨nofun, rfl, id⟩
theorem rxFrameFesc : Statement (.rxFrameFesc) := ⟨nofun, rfl, id⟩
theorem rxFrameOther (b : Byte) : Statement (.rxFrameOther b) := ⟨nofun, rfl, id⟩
theorem rxEscTfend : Statement (.rxEscTfend) := ⟨nofun, rfl, id⟩
theorem rxEscTfesc : Statement (.rxEscTfesc) := ⟨nofun, rfl, id⟩
theorem rxEscOther (b : Byte) : Statement (.rxEscOther b) := ⟨nofun, rfl, id⟩
theorem kissTypeData (port : Nibble) : Statement (.kissTypeData port) := ⟨nofun, rfl, id⟩
theorem kissTypeTxdelay (port : Nibble) : Statement (.kissTypeTxdelay port) := ⟨nofun, rfl, id⟩
theorem kissTypeNondata (port cmd : Nibble) : Statement (.kissTypeNondata port cmd) := ⟨nofun, rfl, id⟩
theorem ctlUi : Statement (.ctlUi) := ⟨nofun, rfl, id⟩
theorem ctlSabm : Statement (.ctlSabm) := ⟨nofun, rfl, id⟩
theorem ctlUa : Statement (.ctlUa) := ⟨nofun, rfl, id⟩
theorem ctlDisc : Statement (.ctlDisc) := ⟨nofun, rfl, id⟩
theorem ctlDm : Statement (.ctlDm) := ⟨nofun, rfl, id⟩
theorem ctlI (ns nr : Bits3) (bit4 : Bool) : Statement (.ctlI ns nr bit4) := ⟨nofun, rfl, id⟩
theorem ctlRr (nr : Bits3) (bit4 : Bool) : Statement (.ctlRr nr bit4) := ⟨nofun, rfl, id⟩
theorem ctlRnr (nr : Bits3) (bit4 : Bool) : Statement (.ctlRnr nr bit4) := ⟨nofun, rfl, id⟩
theorem ctlRej (nr : Bits3) (bit4 : Bool) : Statement (.ctlRej nr bit4) := ⟨nofun, rfl, id⟩
theorem ctlSUnknown (nr : Bits3) (bit4 : Bool) : Statement (.ctlSUnknown nr bit4) := ⟨nofun, rfl, id⟩
theorem ctlOther (ctrl : Byte) : Statement (.ctlOther ctrl) := ⟨nofun, rfl, id⟩
theorem pidNoL3 : Statement (.pidNoL3) := ⟨nofun, rfl, id⟩
theorem addrUnit (unit : AddrUnit) : Statement (.addrUnit unit) := ⟨nofun, rfl, id⟩

end Sys2Proof.Laws.ExpandIsCore

namespace Sys2Proof.Laws.EncodeNonempty

/-- An instruction is encoded by at least one byte. -/
def Statement (i : Instr) : Prop := 1 ≤ (encode i).length

theorem kissSend (type : Byte) (payload : List Byte) : Statement (.kissSend type payload) := Nat.le_add_left 1 _
theorem kissSetTxdelay (ms : Word32) : Statement (.kissSetTxdelay ms) := Nat.le_add_left 1 _
theorem kissEscape (data : List Byte) : Statement (.kissEscape data) := Nat.le_add_left 1 _
theorem kissUnescape (data : List Byte) : Statement (.kissUnescape data) := Nat.le_add_left 1 _
theorem lineReset : Statement (.lineReset) := Nat.le_add_left 1 _
theorem encAddr (a : Addr) (last : Bool) : Statement (.encAddr a last) := Nat.le_add_left 1 _
theorem buildHeader (src dest : Addr) (path : List Addr) : Statement (.buildHeader src dest path) := Nat.le_add_left 1 _
theorem buildUi (src dest : Addr) (path : List Addr) (info : List Byte) : Statement (.buildUi src dest path info) := Nat.le_add_left 1 _
theorem buildU (src dest : Addr) (path : List Addr) (ctrl : Byte) : Statement (.buildU src dest path ctrl) := Nat.le_add_left 1 _
theorem buildI (src dest : Addr) (path : List Addr) (ns nr : Bits3) (info : List Byte) : Statement (.buildI src dest path ns nr info) := Nat.le_add_left 1 _
theorem decAddr (unit : AddrUnit) : Statement (.decAddr unit) := Nat.le_add_left 1 _
theorem parse (frame : List Byte) : Statement (.parse frame) := Nat.le_add_left 1 _
theorem classify (ctrl : Byte) : Statement (.classify ctrl) := Nat.le_add_left 1 _
theorem fcsCalc (data : List Byte) : Statement (.fcsCalc data) := Nat.le_add_left 1 _
theorem fcsCheck (data : List Byte) : Statement (.fcsCheck data) := Nat.le_add_left 1 _
theorem ctrRead (n : CtrId) : Statement (.ctrRead n) := Nat.le_add_left 1 _
theorem ctrClear : Statement (.ctrClear) := Nat.le_add_left 1 _
theorem reservedOp (op : Byte) (rest : List Byte) : Statement (.reservedOp op rest) := Nat.le_add_left 1 _
theorem buildSabm (src dest : Addr) (path : List Addr) : Statement (.buildSabm src dest path) := Nat.le_add_left 1 _
theorem buildUa (src dest : Addr) (path : List Addr) : Statement (.buildUa src dest path) := Nat.le_add_left 1 _
theorem buildDisc (src dest : Addr) (path : List Addr) : Statement (.buildDisc src dest path) := Nat.le_add_left 1 _
theorem buildDm (src dest : Addr) (path : List Addr) : Statement (.buildDm src dest path) := Nat.le_add_left 1 _
theorem kissData (port : Nibble) (payload : List Byte) : Statement (.kissData port payload) := Nat.le_add_left 1 _
theorem rxHuntFend : Statement (.rxHuntFend) := Nat.le_add_left 1 _
theorem rxHuntOther (b : Byte) : Statement (.rxHuntOther b) := Nat.le_add_left 1 _
theorem rxFrameFend : Statement (.rxFrameFend) := Nat.le_add_left 1 _
theorem rxFrameFesc : Statement (.rxFrameFesc) := Nat.le_add_left 1 _
theorem rxFrameOther (b : Byte) : Statement (.rxFrameOther b) := Nat.le_add_left 1 _
theorem rxEscTfend : Statement (.rxEscTfend) := Nat.le_add_left 1 _
theorem rxEscTfesc : Statement (.rxEscTfesc) := Nat.le_add_left 1 _
theorem rxEscOther (b : Byte) : Statement (.rxEscOther b) := Nat.le_add_left 1 _
theorem kissTypeData (port : Nibble) : Statement (.kissTypeData port) := Nat.le_add_left 1 _
theorem kissTypeTxdelay (port : Nibble) : Statement (.kissTypeTxdelay port) := Nat.le_add_left 1 _
theorem kissTypeNondata (port cmd : Nibble) : Statement (.kissTypeNondata port cmd) := Nat.le_add_left 1 _
theorem ctlUi : Statement (.ctlUi) := Nat.le_add_left 1 _
theorem ctlSabm : Statement (.ctlSabm) := Nat.le_add_left 1 _
theorem ctlUa : Statement (.ctlUa) := Nat.le_add_left 1 _
theorem ctlDisc : Statement (.ctlDisc) := Nat.le_add_left 1 _
theorem ctlDm : Statement (.ctlDm) := Nat.le_add_left 1 _
theorem ctlI (ns nr : Bits3) (bit4 : Bool) : Statement (.ctlI ns nr bit4) := Nat.le_add_left 1 _
theorem ctlRr (nr : Bits3) (bit4 : Bool) : Statement (.ctlRr nr bit4) := Nat.le_add_left 1 _
theorem ctlRnr (nr : Bits3) (bit4 : Bool) : Statement (.ctlRnr nr bit4) := Nat.le_add_left 1 _
theorem ctlRej (nr : Bits3) (bit4 : Bool) : Statement (.ctlRej nr bit4) := Nat.le_add_left 1 _
theorem ctlSUnknown (nr : Bits3) (bit4 : Bool) : Statement (.ctlSUnknown nr bit4) := Nat.le_add_left 1 _
theorem ctlOther (ctrl : Byte) : Statement (.ctlOther ctrl) := Nat.le_add_left 1 _
theorem pidNoL3 : Statement (.pidNoL3) := Nat.le_add_left 1 _
theorem addrUnit (unit : AddrUnit) : Statement (.addrUnit unit) := Nat.le_add_left 1 _

end Sys2Proof.Laws.EncodeNonempty
end

