-- ==== Sys2Proof/Laws/Step.lean ====
section
/-! SUPPORT. What `exec` and `step` can do, said once: every instruction answers a next state that keeps the parameters and
the inputs, and a step is one of three cases. -/

namespace Sys2Proof.Machine

theorem rxByte_cfg_inputs (b : Byte) (s : State) : (rxByte b s).cfg = s.cfg ∧ (rxByte b s).inputs = s.inputs := by
  obtain ⟨mode, esc, buf, ovf, ctr, out, h⟩ := rxByte_frame b s
  rw [h]
  exact ⟨rfl, rfl⟩

/-- PARSE ends in one of three ways (R190). -/
theorem execParse_cases (frame : List Byte) (s : State) :
    (parseFrame s.cfg.fcsMode frame = .null ∧
      exec (.parse frame) s = .next (complete ⟨.parseNull, []⟩ (ctrInc .parseNull s))) ∨
    (parseFrame s.cfg.fcsMode frame = .fcsBad ∧
      exec (.parse frame) s = .next (complete ⟨.fcsBad, []⟩ (ctrInc .fcsBad s))) ∨
    (∃ p, parseFrame s.cfg.fcsMode frame = .frame p ∧ exec (.parse frame) s = .next (completeOk p.bytes s)) := by
  simp only [exec, execParse]
  cases h : parseFrame s.cfg.fcsMode frame with
  | null => exact .inl ⟨rfl, rfl⟩
  | fcsBad => exact .inr (.inl ⟨rfl, rfl⟩)
  | frame p => exact .inr (.inr ⟨p, rfl, rfl⟩)

/-- FCS_CHECK reports and does nothing else (R205). -/
theorem execFcsCheck_reports (data : List Byte) (s : State) :
    ∃ report, exec (.fcsCheck data) s = .next (completeOk report s) := by
  simp only [exec, execFcsCheck]
  split
  · exact ⟨_, rfl⟩
  · exact ⟨_, rfl⟩

/-- What the run so far has no other name for: an instruction keeps the parameters and the steps to come. -/
def keepsRun (i : Instr) (s : State) : Prop := ∃ t, exec i s = .next t ∧ t.cfg = s.cfg ∧ t.inputs = s.inputs

theorem keepsRun_rxByte (i : Instr) (b : Byte) (s : State) (h : exec i s = .next (rxByte b s)) : keepsRun i s :=
  ⟨_, h, rxByte_cfg_inputs b s⟩

/-- Every instruction answers a next state, and keeps the parameters and the inputs (R31, R240). -/
theorem exec_keepsRun (i : Instr) (s : State) : keepsRun i s := by
  cases i with
  | parse frame =>
    rcases execParse_cases frame s with ⟨-, h⟩ | ⟨-, h⟩ | ⟨p, -, h⟩
    all_goals exact ⟨_, h, rfl, rfl⟩
  | fcsCheck data =>
    obtain ⟨report, h⟩ := execFcsCheck_reports data s
    exact ⟨_, h, rfl, rfl⟩
  | rxHuntFend => exact keepsRun_rxByte _ fend s rfl
  | rxHuntOther b => exact keepsRun_rxByte _ b s rfl
  | rxFrameFend => exact keepsRun_rxByte _ fend s rfl
  | rxFrameFesc => exact keepsRun_rxByte _ fesc s rfl
  | rxFrameOther b => exact keepsRun_rxByte _ b s rfl
  | rxEscTfend => exact keepsRun_rxByte _ tfend s rfl
  | rxEscTfesc => exact keepsRun_rxByte _ tfesc s rfl
  | rxEscOther b => exact keepsRun_rxByte _ b s rfl
  | _ => exact ⟨_, rfl, rfl, rfl⟩

/-- Everything a step can do: hold, refuse a record, or execute what the next input decodes to. -/
theorem step_cases (s : State) :
    (s.inputs = [] ∧ step s = .next s) ∨
    (∃ input rest f, s.inputs = input :: rest ∧ decodeInput s input = .error f ∧
      step s = .next (raiseFault f { s with inputs := rest })) ∨
    (∃ input rest i, s.inputs = input :: rest ∧ decodeInput s input = .ok i ∧
      step s = exec i { s with inputs := rest }) := by
  unfold step
  cases hin : s.inputs with
  | nil => exact .inl ⟨rfl, rfl⟩
  | cons input rest =>
    cases hd : decodeInput s input with
    | error f => exact .inr (.inl ⟨input, rest, f, rfl, hd, by simp [hd]⟩)
    | ok i => exact .inr (.inr ⟨input, rest, i, rfl, hd, by simp [hd]⟩)

/-- A byte of the RX line is performed as RX_BYTE (R130). -/
theorem step_rxByte (s : State) (b : Byte) (rest : List Input) (h : s.inputs = .rxByte b :: rest) :
    step s = .next (rxByte b { s with inputs := rest }) := by
  simp only [step, h, decodeInput]
  exact exec_decodeRx _ _ _ _

/-- The next input of a state runs first whatever stands behind it. -/
theorem step_withFetchWord_record (s : State) (nbits w : Nat) (bytes : List Byte) (i : Instr)
    (hw : readTableWord nbits w = .record bytes) (hd : decodeRecord bytes = .ok i) :
    decodeTableWord nbits w = some i ∧ step (s.withFetchWord nbits w) = exec i s := by
  constructor
  · simp [decodeTableWord, hw, hd, Except.toOption]
  · simp [State.withFetchWord, hw, step, decodeInput, hd]

end Sys2Proof.Machine
end

