-- ==== Sys2Proof/Tests/Slice0.lean ====
section
/-! SUPPORT. The model's own tests, each expected value taken from the spec (95_test_vectors.md, the rules' worked examples and
corner cases, or the encoding tables by hand): the well-formedness checks, decoding by words written out from the spec, single
steps, and a witness for the hypotheses of every statement. -/

namespace Sys2Proof.Tests

open Sys2Proof.Machine Sys2Proof.Safety

/-! ### Helpers -/

/-- The state after one step. -/
def stepped (s : State) : State :=
  match step s with
  | .next t => t
  | .fault _ => s
  | .refused _ => s

/-- The block after reset, built with `cfg`, after the host issued one record. -/
def issuedWith (cfg : Config) (record : List Byte) : State :=
  stepped { State.resetWith cfg with inputs := [.command record] }

/-- The same with the reference parameters. -/
def issued (record : List Byte) : State := issuedWith .reference record

/-- The result port's bytes. -/
def resultBytes (s : State) : List (List Byte) := s.results.map ResultRecord.bytes

/-- The block inside a frame with the given bytes buffered and an RX byte to come. -/
def receiving (buf : List Byte) (esc : Bool) (b : Byte) : State :=
  { State.reset with rxMode := .frame, rxBuf := buf, rxEsc := esc, inputs := [.rxByte b] }

/-- What a record decodes to, as plain data. -/
def decoded (record : List Byte) : Option Instr := (decodeRecord record).toOption

/-- The fault of a record that is refused. -/
def refusal (record : List Byte) : Option FaultCode :=
  match decodeRecord record with
  | .ok _ => none
  | .error f => some f

def addrA : Addr := ⟨[0x41], 0⟩
def addrB : Addr := ⟨[0x42], 0⟩
/-- N0CALL-5. -/
def addrN0call : Addr := ⟨[0x4E, 0x30, 0x43, 0x41, 0x4C, 0x4C], 5⟩
/-- CQ. -/
def addrCq : Addr := ⟨[0x43, 0x51], 0⟩
/-- The 14-byte header `H` of 95_test_vectors.md §1.10. -/
def headerH : List Byte := [0x86, 0xA2, 0x40, 0x40, 0x40, 0x40, 0x60, 0x9C, 0x60, 0x86, 0x82, 0x98, 0x98, 0x6B]

/-! ### Well-formedness: one ill-formed term for each check -/

theorem test_wf_accepts :
    (Instr.kissSend 0xC0 [1, 2]).wf = true ∧ (Instr.encAddr addrN0call true).wf = true ∧
    (Instr.encAddr ⟨[0x41, 0x42, 0x43, 0x44, 0x45, 0x46, 0x80], 0⟩ false).wf = true ∧
    (Instr.buildUi addrA addrB (List.replicate 8 addrA) []).wf = true ∧
    (Instr.reservedOp 0x06 []).wf = true ∧ (Instr.ctlOther 0xFF).wf = true := by decide

theorem test_wf_refuses_bad_char : (Instr.encAddr ⟨[0x80], 0⟩ true).wf = false := by decide
theorem test_wf_refuses_bad_char_in_path : (Instr.buildHeader addrA addrB [⟨[0x41, 0xFF], 0⟩]).wf = false := by decide
theorem test_wf_refuses_long_path : (Instr.buildU addrA addrB (List.replicate 9 addrA) 0).wf = false := by decide
theorem test_wf_refuses_bad_src : (Instr.buildSabm ⟨[0x80], 0⟩ addrB []).wf = false := by decide
theorem test_wf_refuses_assigned_op : (Instr.reservedOp 0x31 []).wf = false := by decide
theorem test_wf_refuses_rx_bytes_of_other_rows :
    (Instr.rxHuntOther 0xC0).wf = false ∧ (Instr.rxFrameOther 0xC0).wf = false ∧ (Instr.rxFrameOther 0xDB).wf = false ∧
    (Instr.rxEscOther 0xC0).wf = false ∧ (Instr.rxEscOther 0xDC).wf = false ∧ (Instr.rxEscOther 0xDD).wf = false := by decide
theorem test_wf_refuses_type_of_other_rows :
    (Instr.kissTypeNondata 3 0).wf = false ∧ (Instr.kissTypeNondata 3 1).wf = false := by decide
theorem test_wf_refuses_control_of_other_rows :
    (Instr.ctlOther 0x03).wf = false ∧ (Instr.ctlOther 0x2F).wf = false ∧ (Instr.ctlOther 0x05).wf = false ∧
    (Instr.ctlOther 0x10).wf = false := by decide

theorem test_wf_refuses_long_data (data : List Byte) (h : data.length = 65536) : (Instr.parse data).wf = false := by
  simp [Instr.wf, bytes16Wf, h]

theorem test_wf_refuses_long_callsign (call : List Byte) (h : call.length = 256) :
    (Instr.encAddr ⟨call, 0⟩ true).wf = false := by
  simp [Instr.wf, Addr.wf, h]

/-! ### Decoding: one word per row, by hand from R82, R88, R130, R72, R77, R78, R74 -/

theorem test_decode_kiss_commands :
    decoded [0x01, 0x10, 0x00, 0x01, 0x41] = some (.kissSend 0x10 [0x41]) ∧
    decoded [0x02, 0x00, 0x00, 0x01, 0x2C] = some (.kissSetTxdelay 300) ∧
    decoded [0x03, 0x00, 0x01, 0xC0] = some (.kissEscape [0xC0]) ∧
    decoded [0x04, 0x00, 0x02, 0xDB, 0xDC] = some (.kissUnescape [0xDB, 0xDC]) ∧
    decoded [0x05] = some .lineReset := by decide

theorem test_decode_encoder_commands :
    decoded [0x10, 0x02, 0x43, 0x51, 0x00, 0x00] = some (.encAddr addrCq false) ∧
    decoded [0x11, 0x01, 0x41, 0x00, 0x01, 0x42, 0x00, 0x02, 0x01, 0x43, 0x00, 0x01, 0x44, 0x01] =
      some (.buildHeader addrA addrB [⟨[0x43], 0⟩, ⟨[0x44], 1⟩]) ∧
    decoded [0x12, 0x06, 0x4E, 0x30, 0x43, 0x41, 0x4C, 0x4C, 0x05, 0x02, 0x43, 0x51, 0x00, 0x00, 0x00, 0x02, 0x68, 0x69] =
      some (.buildUi addrN0call addrCq [] [0x68, 0x69]) ∧
    decoded [0x13, 0x01, 0x41, 0x00, 0x01, 0x42, 0x00, 0x00, 0x2F] = some (.buildU addrA addrB [] 0x2F) ∧
    decoded [0x14, 0x01, 0x41, 0x00, 0x01, 0x42, 0x00, 0x00, 0x05, 0x02, 0x00, 0x01, 0x78] =
      some (.buildI addrA addrB [] 5 2 [0x78]) := by decide

theorem test_decode_decoder_commands :
    decoded [0x20, 0x9C, 0x60, 0x86, 0x82, 0x98, 0x98, 0x6B] = some (.decAddr ⟨0x9C, 0x60, 0x86, 0x82, 0x98, 0x98, 0x6B⟩) ∧
    decoded [0x21, 0x00, 0x01, 0x07] = some (.parse [0x07]) ∧
    decoded [0x22, 0x2F] = some (.classify 0x2F) ∧
    decoded [0x23, 0x00, 0x02, 0x03, 0xF0] = some (.fcsCalc [0x03, 0xF0]) ∧
    decoded [0x24, 0x00, 0x00] = some (.fcsCheck []) := by decide

theorem test_decode_status_commands :
    decoded [0x30, 0x02] = some (.ctrRead .rxOverrun) ∧ decoded [0x31] = some .ctrClear ∧
    decoded [0x06, 0x01, 0x02] = some (.reservedOp 0x06 [0x01, 0x02]) := by decide

/-- R88: the pseudo-operations' records, and what they decode to. -/
theorem test_encode_pseudo_operations :
    encode (.buildSabm addrA addrB []) = [0x13, 0x01, 0x41, 0x00, 0x01, 0x42, 0x00, 0x00, 0x2F] ∧
    encode (.buildUa addrA addrB []) = [0x13, 0x01, 0x41, 0x00, 0x01, 0x42, 0x00, 0x00, 0x63] ∧
    encode (.buildDisc addrA addrB []) = [0x13, 0x01, 0x41, 0x00, 0x01, 0x42, 0x00, 0x00, 0x43] ∧
    encode (.buildDm addrA addrB []) = [0x13, 0x01, 0x41, 0x00, 0x01, 0x42, 0x00, 0x00, 0x0F] ∧
    encode (.kissData 1 [0x41]) = [0x01, 0x10, 0x00, 0x01, 0x41] ∧
    (Instr.buildDm addrA addrB []).expand = .buildU addrA addrB [] 0x0F := by decide

theorem test_decode_rx_bytes :
    decodeRx .hunt false 0xC0 = .rxHuntFend ∧ decodeRx .hunt true 0xDB = .rxHuntOther 0xDB ∧
    decodeRx .frame false 0xC0 = .rxFrameFend ∧ decodeRx .frame true 0xC0 = .rxFrameFend ∧
    decodeRx .frame false 0xDB = .rxFrameFesc ∧ decodeRx .frame false 0xDC = .rxFrameOther 0xDC ∧
    decodeRx .frame true 0xDC = .rxEscTfend ∧ decodeRx .frame true 0xDD = .rxEscTfesc ∧
    decodeRx .frame true 0xDB = .rxEscOther 0xDB := by decide

theorem test_decode_wire_elements :
    decodeType 0x50 = .kissTypeData 5 ∧ decodeType 0x31 = .kissTypeTxdelay 3 ∧ decodeType 0xFF = .kissTypeNondata 15 15 ∧
    decodePid 0xF0 = some .pidNoL3 ∧ decodePid 0xCC = none ∧
    decodeUnit [0x86, 0xA2, 0x40, 0x40, 0x40, 0x40, 0x60] =
      some (.addrUnit ⟨0x86, 0xA2, 0x40, 0x40, 0x40, 0x40, 0x60⟩) := by decide

theorem test_decode_control_bytes :
    decodeCtl 0x03 = .ctlUi ∧ decodeCtl 0x2F = .ctlSabm ∧ decodeCtl 0x63 = .ctlUa ∧ decodeCtl 0x43 = .ctlDisc ∧
    decodeCtl 0x0F = .ctlDm ∧ decodeCtl 0x4A = .ctlI 5 2 false ∧ decodeCtl 0x10 = .ctlI 0 0 true ∧
    decodeCtl 0x21 = .ctlRr 1 false ∧ decodeCtl 0xA5 = .ctlRnr 5 false ∧ decodeCtl 0xF9 = .ctlRej 7 true ∧
    decodeCtl 0xFD = .ctlSUnknown 7 true ∧ decodeCtl 0x13 = .ctlOther 0x13 ∧ decodeCtl 0x3F = .ctlOther 0x3F := by decide

/-- 95_test_vectors.md §2.1 to §2.6: the faults, each by its record. -/
theorem test_refused_records :
    refusal [] = some .badOperand ∧ refusal [0x03, 0x00, 0x02, 0x41] = some .badOperand ∧
    refusal [0x03, 0x00, 0x01, 0x41, 0x42] = some .badOperand ∧
    refusal [0x10, 0x01, 0x80, 0x10, 0x00] = some .badChar ∧
    refusal [0x10, 0x01, 0x41, 0x10, 0x00] = some .badSsid ∧
    refusal [0x10, 0x01, 0x41, 0x00, 0x02] = some .badOperand ∧
    refusal [0x11, 0x01, 0x41, 0x00, 0x01, 0x42, 0x00, 0x09] = some .pathTooLong ∧
    refusal [0x11, 0x01, 0x41, 0x10, 0x01, 0x80, 0x00, 0x00] = some .badSsid ∧
    refusal [0x14, 0x01, 0x41, 0x00, 0x01, 0x42, 0x00, 0x00, 0x08, 0x00] = some .badSeq ∧
    refusal [0x30, 0x05] = some .badCtr ∧ refusal [0x30] = some .badOperand ∧ refusal [0x31, 0x00] = some .badOperand := by
  decide

/-- Words of the opcode table (log entry 7), each run as the first instruction after reset. -/
theorem test_table_words :
    decodeTableWord 8 0x14 = some (.buildI ⟨[], 0⟩ ⟨[], 0⟩ [] 0 0 []) ∧
    decodeTableWord 8 0x00 = some (.reservedOp 0x00 []) ∧
    decodeTableWord 8 0xC0 = some .rxHuntFend ∧ decodeTableWord 8 0xDD = some .rxEscTfesc ∧
    decodeTableWord 8 0x2F = some .ctlSabm ∧
    (stepped (State.reset.withFetchWord 8 0x14)).results.length = 1 ∧
    (stepped (State.reset.withFetchWord 8 0xC0)).rxMode = .frame ∧
    resultBytes (stepped (State.reset.withFetchWord 8 0x2F)) = [[0x00, 0x01, 0x00, 0x00, 0x04, 0x53, 0x41, 0x42, 0x4D]] := by
  decide

/-! ### Single steps: KISS (95_test_vectors.md §1.1 to §1.6, §2.1) -/

theorem test_kissSend :
    (issued [0x01, 0x00, 0x00, 0x03, 0x01, 0xC0, 0x02]).txLine = [0xC0, 0x00, 0x01, 0xDB, 0xDC, 0x02, 0xC0] ∧
    (issued [0x01, 0xDB, 0x00, 0x01, 0x41]).txLine = [0xC0, 0xDB, 0x41, 0xC0] := by decide

theorem test_kissSetTxdelay :
    (issued [0x02, 0x00, 0x00, 0x07, 0x89]).txLine = [0xC0, 0x01, 0xDB, 0xDC, 0xC0] ∧
    (issued [0x02, 0x80, 0x00, 0x00, 0x00]).txLine = [0xC0, 0x01, 0x00, 0xC0] ∧
    (issuedWith ⟨1024, .pass, .none, 3⟩ [0x02, 0x00, 0x00, 0x01, 0x2C]).txLine = [0xC0, 0x31, 0x1E, 0xC0] := by decide

theorem test_kissEscape_unescape :
    resultBytes (issued [0x03, 0x00, 0x03, 0xC0, 0xDB, 0x01]) = [[0x00, 0x00, 0x00, 0x00, 0x05, 0xDB, 0xDC, 0xDB, 0xDD, 0x01]] ∧
    resultBytes (issued [0x04, 0x00, 0x03, 0xDB, 0xDB, 0xDC]) = [[0x00, 0x00, 0x00, 0x00, 0x02, 0xDB, 0xDC]] ∧
    resultBytes (issued [0x04, 0x00, 0x02, 0x41, 0xDB]) = [[0x00, 0x00, 0x00, 0x00, 0x01, 0x41]] := by decide

theorem test_unescape_policies :
    unescape .drop [0xDB, 0xDB, 0xDC] = [0xDC] ∧ unescape .keep [0xDB, 0xDB, 0xDC] = [0xDB, 0xDB, 0xDC] ∧
    unescape .keep [0xDB, 0xC0] = [0xDB, 0xC0] := by decide

theorem test_lineReset :
    (stepped { receiving [0x00, 0x41] true 0 with inputs := [.command [0x05]] }) =
      { State.reset with results := [⟨.ok, []⟩] } := by decide

theorem test_kissData : exec (.kissData 1 [0x41]) State.reset =
    .next { State.reset with txLine := [0xC0, 0x10, 0x41, 0xC0], results := [⟨.ok, []⟩] } := rfl

theorem test_rx_hunt :
    (stepped { State.reset with inputs := [.rxByte 0x41] }).rxMode = .hunt ∧
    (stepped { State.reset with inputs := [.rxByte 0xC0] }).rxMode = .frame := by decide

theorem test_rxFrameFend :
    (stepped (receiving [0x50, 0x41] true 0xC0)).rxOut = [⟨5, [0x41]⟩] ∧
    (stepped (receiving [0x50, 0x41] true 0xC0)).ctr = ⟨1, 0, 0, 0, 0⟩ ∧
    (stepped (receiving [0x01, 0x1E] false 0xC0)).ctr = ⟨0, 1, 0, 0, 0⟩ ∧
    (stepped (receiving [0x00] false 0xC0)).rxOut = [⟨0, []⟩] ∧
    (stepped (receiving [] true 0xC0)) = { State.reset with rxMode := .frame } ∧
    (stepped { receiving [0x00] false 0xC0 with rxOvf := true }).ctr = ⟨0, 0, 1, 0, 0⟩ := by decide

theorem test_rx_frame_bytes :
    (stepped (receiving [0x00] false 0xDB)).rxEsc = true ∧ (stepped (receiving [0x00] false 0xDB)).rxBuf = [0x00] ∧
    (stepped (receiving [0x00] false 0xDC)).rxBuf = [0x00, 0xDC] ∧
    (stepped (receiving [0x00] true 0xDC)).rxBuf = [0x00, 0xC0] ∧
    (stepped (receiving [0x00] true 0xDD)).rxBuf = [0x00, 0xDB] ∧
    (stepped (receiving [0x00] true 0x41)).rxBuf = [0x00, 0x41] ∧
    (stepped (receiving [0x00] true 0x41)).rxEsc = false := by decide

theorem test_rx_overrun :
    (stepped { receiving [0x00] false 0x41 with cfg := ⟨1, .pass, .none, 0⟩ }).rxOvf = true ∧
    (stepped { receiving [0x00] false 0x41 with cfg := ⟨1, .pass, .none, 0⟩ }).rxBuf = [0x00] ∧
    (stepped { receiving [] true 0x41 with cfg := ⟨1, .keep, .none, 0⟩ }).rxBuf = [0xDB] := by decide

theorem test_type_rows :
    exec (.kissTypeData 5) (receiving [0x50, 0x41] false 0) =
      .next { receiving [0x50, 0x41] false 0 with rxOut := [⟨5, [0x41]⟩], ctr := ⟨1, 0, 0, 0, 0⟩ } ∧
    exec (.kissTypeTxdelay 0) State.reset = .next { State.reset with ctr := ⟨0, 1, 0, 0, 0⟩ } ∧
    exec (.kissTypeNondata 15 15) State.reset = .next { State.reset with ctr := ⟨0, 1, 0, 0, 0⟩ } := ⟨rfl, rfl, rfl⟩

/-! ### Single steps: encoder (§1.7 to §1.9, §2.2) -/

theorem test_encAddr :
    resultBytes (issued [0x10, 0x06, 0x4E, 0x30, 0x43, 0x41, 0x4C, 0x4C, 0x05, 0x01]) =
      [[0x00, 0x00, 0x00, 0x00, 0x07, 0x9C, 0x60, 0x86, 0x82, 0x98, 0x98, 0x6B]] ∧
    resultBytes (issued [0x10, 0x08, 0x41, 0x42, 0x43, 0x44, 0x45, 0x46, 0x47, 0x48, 0x00, 0x00]) =
      [[0x00, 0x00, 0x00, 0x00, 0x07, 0x82, 0x84, 0x86, 0x88, 0x8A, 0x8C, 0x60]] := by decide

theorem test_buildHeader :
    resultBytes (issued [0x11, 0x01, 0x41, 0x00, 0x01, 0x42, 0x00, 0x02, 0x01, 0x43, 0x00, 0x01, 0x44, 0x01]) =
      [[0x00, 0x00, 0x00, 0x00, 0x1C, 0x84, 0x40, 0x40, 0x40, 0x40, 0x40, 0x60, 0x82, 0x40, 0x40, 0x40, 0x40, 0x40, 0x60,
        0x86, 0x40, 0x40, 0x40, 0x40, 0x40, 0x60, 0x88, 0x40, 0x40, 0x40, 0x40, 0x40, 0x63]] := by decide

theorem test_buildUi :
    resultBytes (issued [0x12, 0x06, 0x4E, 0x30, 0x43, 0x41, 0x4C, 0x4C, 0x05, 0x02, 0x43, 0x51, 0x00, 0x00, 0x00, 0x02,
      0x68, 0x69]) = [[0x00, 0x00, 0x00, 0x00, 0x12] ++ headerH ++ [0x03, 0xF0, 0x68, 0x69]] := by decide

theorem test_buildU :
    resultBytes (issued [0x13, 0x01, 0x41, 0x00, 0x01, 0x42, 0x00, 0x00, 0x03]) =
      [[0x00, 0x00, 0x00, 0x00, 0x0F, 0x84, 0x40, 0x40, 0x40, 0x40, 0x40, 0x60, 0x82, 0x40, 0x40, 0x40, 0x40, 0x40, 0x61,
        0x03]] := by decide

theorem test_buildI :
    resultBytes (issued [0x14, 0x01, 0x41, 0x00, 0x01, 0x42, 0x00, 0x00, 0x05, 0x02, 0x00, 0x01, 0x78]) =
      [[0x00, 0x00, 0x00, 0x00, 0x11, 0x84, 0x40, 0x40, 0x40, 0x40, 0x40, 0x60, 0x82, 0x40, 0x40, 0x40, 0x40, 0x40, 0x61,
        0x4A, 0xF0, 0x78]] := by decide

theorem test_pseudo_operations :
    (∃ t, exec (.buildSabm addrN0call addrCq []) State.reset = .next t ∧
      resultBytes t = [[0x00, 0x00, 0x00, 0x00, 0x0F] ++ headerH ++ [0x2F]]) ∧
    (∃ t, exec (.buildUa addrN0call addrCq []) State.reset = .next t ∧
      resultBytes t = [[0x00, 0x00, 0x00, 0x00, 0x0F] ++ headerH ++ [0x63]]) ∧
    (∃ t, exec (.buildDisc addrN0call addrCq []) State.reset = .next t ∧
      resultBytes t = [[0x00, 0x00, 0x00, 0x00, 0x0F] ++ headerH ++ [0x43]]) ∧
    (∃ t, exec (.buildDm addrN0call addrCq []) State.reset = .next t ∧
      resultBytes t = [[0x00, 0x00, 0x00, 0x00, 0x0F] ++ headerH ++ [0x0F]]) :=
  ⟨⟨_, rfl, by decide⟩, ⟨_, rfl, by decide⟩, ⟨_, rfl, by decide⟩, ⟨_, rfl, by decide⟩⟩

/-! ### Single steps: decoder (§2.3 to §2.5) -/

theorem test_decAddr :
    resultBytes (issued [0x20, 0x9D, 0x61, 0x87, 0x83, 0x99, 0x99, 0xFF]) =
      [[0x00, 0x06, 0x4E, 0x30, 0x43, 0x41, 0x4C, 0x4C, 0x0F, 0x01, 0x07]] ∧
    resultBytes (issued [0x20, 0x40, 0x82, 0x40, 0x40, 0x40, 0x40, 0xE1]) = [[0x00, 0x02, 0x20, 0x41, 0x00, 0x01, 0x07]] := by
  decide

theorem test_parse_ui :
    resultBytes (issued ([0x21, 0x00, 0x12] ++ headerH ++ [0x03, 0xF0, 0x68, 0x69])) =
      [[0x00, 0x02, 0x43, 0x51, 0x00, 0x00, 0x03, 0x06, 0x4E, 0x30, 0x43, 0x41, 0x4C, 0x4C, 0x05, 0x01, 0x03, 0x00, 0x00,
        0x03, 0x01, 0xF0, 0x00, 0x00, 0x00, 0x02, 0x68, 0x69]] := by decide

theorem test_parse_null_and_no_pid :
    (issued ([0x21, 0x00, 0x0F] ++ headerH ++ [0x00])).ctr = ⟨0, 0, 0, 1, 0⟩ ∧
    resultBytes (issued ([0x21, 0x00, 0x0F] ++ headerH ++ [0x00])) = [[0x10]] ∧
    resultBytes (issued ([0x21, 0x00, 0x11] ++ headerH ++ [0x13, 0xF0, 0x68])) =
      [[0x00, 0x02, 0x43, 0x51, 0x00, 0x00, 0x03, 0x06, 0x4E, 0x30, 0x43, 0x41, 0x4C, 0x4C, 0x05, 0x01, 0x03, 0x00, 0x00,
        0x13, 0x00, 0x00, 0x00, 0x00, 0x00, 0x02, 0xF0, 0x68]] := by decide

/-- §2.5, with FCS_MODE = CRC16_X25: a good FCS is stripped, swapped bytes are FCS_BAD and counted. -/
theorem test_parse_fcs :
    (issuedWith ⟨1024, .pass, .crc16X25, 0⟩ [0x21, 0x00, 0x03, 0x00, 0x78, 0xF0]).ctr = ⟨0, 0, 0, 1, 0⟩ ∧
    (issuedWith ⟨1024, .pass, .crc16X25, 0⟩ [0x21, 0x00, 0x03, 0x00, 0xF0, 0x78]).ctr = ⟨0, 0, 0, 0, 1⟩ := by
  decide

theorem test_classify :
    resultBytes (issued [0x22, 0x05]) = [[0x00, 0x07, 0x00, 0x00, 0x03, 0x52, 0x4E, 0x52]] ∧
    resultBytes (issued [0x22, 0x3F]) = [[0x00, 0x0A, 0x00, 0x00, 0x08, 0x43, 0x54, 0x4C, 0x3D, 0x30, 0x78, 0x33, 0x46]] := by
  decide

theorem test_fcs :
    resultBytes (issued [0x23, 0x00, 0x01, 0x00]) = [[0x00, 0xF0, 0x78]] ∧
    resultBytes (issued [0x24, 0x00, 0x03, 0x00, 0x78, 0xF0]) = [[0x00, 0x01, 0xF0, 0x78]] ∧
    resultBytes (issued [0x24, 0x00, 0x02, 0xFF, 0xFF]) = [[0x00, 0x00, 0x00, 0x00]] := by decide

set_option maxRecDepth 20000 in
/-- R200's check value. -/
theorem test_crc_check_value : crc16X25 [0x31, 0x32, 0x33, 0x34, 0x35, 0x36, 0x37, 0x38, 0x39] = 0x906E := by decide

theorem test_control_rows :
    exec (.ctlI 7 7 false) State.reset = .next { State.reset with results := [⟨.ok, [5, 7, 7, 1, 0x49]⟩] } ∧
    exec (.ctlRej 7 true) State.reset = .next { State.reset with results := [⟨.ok, [8, 0, 7, 3, 0x52, 0x45, 0x4A]⟩] } ∧
    exec .ctlDm State.reset = .next { State.reset with results := [⟨.ok, [4, 0, 0, 2, 0x44, 0x4D]⟩] } := ⟨rfl, rfl, rfl⟩

theorem test_address_and_pid_rows :
    exec (.addrUnit ⟨0x86, 0xA2, 0x40, 0x40, 0x40, 0x40, 0x60⟩) State.reset =
      .next { State.reset with results := [⟨.ok, [2, 0x43, 0x51, 0, 0, 3]⟩] } ∧
    exec .pidNoL3 State.reset = .next State.reset := ⟨rfl, rfl⟩

/-! ### Single steps: status and faults (§2.6) -/

theorem test_ctrRead_ctrClear :
    resultBytes (stepped { State.reset with ctr := ⟨0xFFFF, 0, 0, 0, 0⟩, inputs := [.command [0x30, 0x00]] }) =
      [[0x00, 0xFF, 0xFF]] ∧
    (stepped { State.reset with ctr := ⟨1, 2, 3, 4, 5⟩, inputs := [.command [0x31]] }).ctr = ⟨0, 0, 0, 0, 0⟩ := by decide

theorem test_counter_wraps :
    (stepped { receiving [0x00] false 0xC0 with ctr := ⟨0xFFFF, 0, 0, 0, 0⟩ }).ctr = ⟨0, 0, 0, 0, 0⟩ := by decide

theorem test_faults :
    resultBytes (issued [0xFF]) = [[0x01]] ∧ resultBytes (issued []) = [[0x02]] ∧
    resultBytes (issued [0x10, 0x01, 0x41, 0x10, 0x00]) = [[0x03]] ∧ resultBytes (issued [0x30, 0x05]) = [[0x07]] := by decide

/-! ### Witnesses: states and operands that meet the hypotheses of the statements -/

theorem witness_StepPerformsTheNextInput :
    (∃ (s : State) (rest : List Input) (record : List Byte) (i : Instr), s.inputs = .command record :: rest ∧
      decodeRecord record = .ok i ∧ s = State.reset.withFetchWord 8 5) ∧
    (∃ (s : State) (rest : List Input) (b : Byte), s.inputs = .rxByte b :: rest) ∧ (∃ s : State, s.inputs = []) :=
  ⟨⟨_, [], [0x05], .lineReset, rfl, rfl, rfl⟩, ⟨receiving [] false 0xC0, [], 0xC0, rfl⟩, ⟨State.reset, rfl⟩⟩

theorem witness_RefusedRecordChangesOnlyResults :
    (∃ (s : State) (rest : List Input) (record : List Byte), s.inputs = .command record :: rest ∧ decodeRecord record = .error .badOperand) ∧
    decodeRecord [0x10, 0x01, 0x80, 0x00, 0x00] = .error .badChar ∧
    decodeRecord [0x10, 0x01, 0x41, 0x10, 0x00] = .error .badSsid ∧
    decodeRecord [0x11, 0x00, 0x00, 0x00, 0x00, 0x09] = .error .pathTooLong ∧
    decodeRecord [0x14, 0x00, 0x00, 0x00, 0x00, 0x00, 0x08] = .error .badSeq ∧
    decodeRecord [0x30, 0x05] = .error .badCtr :=
  ⟨⟨{ State.reset with inputs := [.command []] }, [], [], rfl, rfl⟩, rfl, rfl, rfl, rfl, rfl⟩

/-- OutputsOnlyGrow, EachCommandAppendsOneResult: a command step and a byte step. -/
theorem witness_steps :
    (∃ (s t : State) (record : List Byte) (rest : List Input), s.inputs = .command record :: rest ∧ step s = .next t ∧ t.txLine ≠ s.txLine) ∧
    (∃ (s t : State) (b : Byte) (rest : List Input), s.inputs = .rxByte b :: rest ∧ step s = .next t ∧ t.rxOut ≠ s.rxOut) :=
  ⟨⟨{ State.reset with inputs := [.command [0x01, 0x00, 0x00, 0x00]] }, _, _, _, rfl, rfl, by decide⟩,
   ⟨receiving [0x00] false 0xC0, _, _, _, rfl, rfl, by decide⟩⟩

theorem witness_ResetMeetsInvariant : Config.wf ⟨329, .keep, .crc16X25, 15⟩ := Nat.le_refl 329

/-- EveryStepKeepsInvariant: a state inside a frame with the invariant, and its step. -/
theorem witness_EveryStepKeepsInvariant : ∃ s t, Inv s ∧ step s = .next t ∧ t.rxOut ≠ s.rxOut :=
  ⟨receiving [0x00, 0x41] true 0xC0, _,
    ⟨by decide, Nat.le_of_ble_eq_true rfl, nofun, nofun, nofun, nofun⟩, rfl, by decide⟩

theorem witness_CommandsKeepTheUnframer :
    (∃ (s t : State) (record : List Byte) (rest : List Input), s.inputs = .command record :: rest ∧ step s = .next t ∧ decodeRecord record ≠ .ok .lineReset) ∧
    (∃ (s t : State) (record : List Byte) (rest : List Input), s.inputs = .command record :: rest ∧ step s = .next t ∧ decodeRecord record = .ok .lineReset) :=
  ⟨⟨{ receiving [0x41] true 0 with inputs := [.command [0x31]] }, _, _, _, rfl, rfl, nofun⟩,
   ⟨{ receiving [0x41] true 0 with inputs := [.command [0x05]] }, _, _, _, rfl, rfl, rfl⟩⟩

/-- RxByteHasAtMostOneEffect: a byte with none, a delivery, a non-data frame, an overrun. -/
theorem witness_RxByteHasAtMostOneEffect :
    step (receiving [] false 0x41) = .next { receiving [0x41] false 0 with inputs := [] } ∧
    step (receiving [0x10, 0x41] false 0xC0) =
      .next { receiving [] false 0 with inputs := [], rxOut := [⟨1, [0x41]⟩], ctr := ⟨1, 0, 0, 0, 0⟩ } ∧
    step (receiving [0x0F] false 0xC0) = .next { receiving [] false 0 with inputs := [], ctr := ⟨0, 1, 0, 0, 0⟩ } ∧
    step { receiving [0x00] false 0xC0 with rxOvf := true } =
      .next { receiving [] false 0 with inputs := [], ctr := ⟨0, 0, 1, 0, 0⟩ } := ⟨rfl, rfl, rfl, rfl⟩

theorem witness_DeliveriesAreCounted :
    ∃ s t, step s = .next t ∧ s.inputs.head? ≠ some (.command [0x31]) ∧ t.rxOut.length = 1 :=
  ⟨receiving [0x00] false 0xC0, _, rfl, by decide, rfl⟩

/-- CommandsCommuteWithRxBytes: a PARSE record, which counts. -/
theorem witness_CommandsCommuteWithRxBytes :
    decodeRecord [0x21, 0x00, 0x00] ≠ .ok .lineReset ∧ decodeRecord [0x21, 0x00, 0x00] ≠ .ok .ctrClear ∧
    ∀ n, n = CtrId.rxData ∨ n = .rxNondata ∨ n = .rxOverrun → decodeRecord [0x21, 0x00, 0x00] ≠ .ok (.ctrRead n) :=
  ⟨by decide, by decide, by rintro n (rfl | rfl | rfl) <;> decide⟩

theorem witness_CounterIncrementWraps : ∃ n m : CtrId, m ≠ n := ⟨.rxData, .fcsBad, by decide⟩

theorem witness_DecodeInvertsEncode :
    ((Instr.buildUi addrN0call addrCq (List.replicate 8 addrA) [0xC0]).wf = true ∧
      (Instr.buildUi addrN0call addrCq (List.replicate 8 addrA) [0xC0]).format = .cmd) ∧
    ((Instr.kissData 15 [0]).wf = true ∧ (Instr.kissData 15 [0]).format = .pseudo) := by decide

theorem witness_EncodeInvertsDecode : ∃ record i, decodeRecord record = .ok i := ⟨[0x05], .lineReset, rfl⟩

theorem witness_row_round_trips :
    ((Instr.ctlOther 0x13).wf = true ∧ (Instr.ctlOther 0x13).format = .ax25Ctl) ∧
    ((Instr.kissTypeNondata 0 2).wf = true ∧ (Instr.kissTypeNondata 0 2).format = .kissType) ∧
    ((Instr.rxEscOther 0xDB).wf = true ∧ (Instr.rxEscOther 0xDB).format = .kissRx) := by decide

/-- ReservedOpsAreIllegal: both ends of each range, as the next record of a state. -/
theorem witness_ReservedOpsAreIllegal :
    (∀ n ∈ [0x00, 0x06, 0x0F, 0x15, 0x1F, 0x25, 0x2F, 0x32, 0xFF],
      n = 0 ∨ (6 ≤ n ∧ n ≤ 0x0F) ∨ (0x15 ≤ n ∧ n ≤ 0x1F) ∨ (0x25 ≤ n ∧ n ≤ 0x2F) ∨ 0x32 ≤ n) ∧
    ∃ (s : State) (op : Byte) (more : List Byte) (rest : List Input), s.inputs = .command (op :: more) :: rest :=
  ⟨by decide, { State.reset with inputs := [.command [0x32, 7]] }, 0x32, [7], [], rfl⟩

theorem witness_TrailingBytesAreRefused :
    (Instr.ctrClear).wf = true ∧ (Instr.ctrClear).format = .cmd ∧ (∀ op rest, Instr.ctrClear ≠ .reservedOp op rest) ∧
    ([0x00] : List Byte) ≠ [] := ⟨rfl, rfl, nofun, nofun⟩

/-- ShortRecordsAreRefused: the empty record, and a record less its last byte. -/
theorem witness_ShortRecordsAreRefused :
    (Instr.buildI addrA addrB [addrA] 7 7 [0x41]).wf = true ∧
    (∀ op rest, Instr.buildI addrA addrB [addrA] 7 7 [0x41] ≠ .reservedOp op rest) ∧
    0 < (encode (.buildI addrA addrB [addrA] 7 7 [0x41])).length ∧
    (encode (.buildI addrA addrB [addrA] 7 7 [0x41])).length = 16 := ⟨by decide, nofun, by decide, by decide⟩

/-- AddressFieldChecks: each of its four branches. -/
theorem witness_AddressFieldChecks :
    refusal [0x10, 0x06, 0x41, 0x42, 0x43, 0x44, 0x45, 0x80, 0x10, 0x02] = some .badChar ∧
    refusal [0x10, 0x07, 0x41, 0x42, 0x43, 0x44, 0x45, 0x46, 0x80, 0x10, 0x02] = some .badSsid ∧
    refusal [0x10, 0x00, 0x0F, 0x02] = some .badOperand ∧ decoded [0x10, 0x00, 0x0F, 0x01] = some (.encAddr ⟨[], 15⟩ true) := by
  decide

theorem witness_LongPathIsRefused : addrA.wf = true ∧ addrB.wf = true ∧ 8 < (0x09 : Byte).toNat := by decide

theorem witness_NumberFieldChecks :
    routeWf addrA addrB [] = true ∧ 7 < (0x08 : Byte).toNat ∧ (0x07 : Byte).toNat ≤ 7 ∧ 4 < (0x05 : Byte).toNat := by decide

theorem witness_UnescapeFollowsItsSteps : (0xDC : Byte) ≠ 0xDB ∧ (0xDB : Byte) ≠ 0xDC ∧ (0xDB : Byte) ≠ 0xDD := by decide

theorem witness_LineResetPutsTheUnframerBack :
    ∃ s t u : State, exec .lineReset s = .next t ∧ exec .lineReset t = .next u := ⟨receiving [1] true 0, _, _, rfl, rfl⟩

theorem witness_EscapeLaws :
    (∃ s t : State, exec (.kissSend 0xC0 [0xC0]) s = .next t) ∧
    ((0xC0 : Byte) ∉ [0xDB, 0xDC, 0xDB, 0xDD]) ∧ ([0xDB, 0xDC] : List Byte)[0]? = some 0xDB :=
  ⟨⟨State.reset, _, rfl⟩, by decide, rfl⟩

theorem witness_HuntRows : State.reset.rxMode = .hunt ∧ (0xDB : Byte) ≠ 0xC0 := by decide

/-- FrameFendClosesTheInterval, TypeRowsCloseTheInterval: each of the four intervals. -/
theorem witness_FrameFendClosesTheInterval :
    ({ receiving [0x00] false 0 with rxOvf := true } : State).rxOvf = true ∧
    ((receiving [] true 0).rxMode = .frame ∧ (receiving [] true 0).rxOvf = false ∧ (receiving [] true 0).rxBuf = []) ∧
    ((receiving [0xF0] true 0).rxBuf = 0xF0 :: [] ∧ (0xF0 : Byte).toNat % 16 = 0) ∧
    ((receiving [0x01] true 0).rxBuf = 0x01 :: [] ∧ (0x01 : Byte).toNat % 16 ≠ 0) := by decide

/-- FrameRowsStoreBytes and FrameRowsOverrun at the boundary: one free place, two, none, for each policy. -/
theorem witness_FrameRows :
    (∀ policy esc, ∃ s : State, s.rxMode = .frame ∧ s.rxEsc = esc ∧ s.cfg.badEsc = policy ∧ s.rxBuf.length + 1 = s.cfg.rxMax) ∧
    (∃ s : State, s.rxMode = .frame ∧ s.rxEsc = true ∧ s.cfg.badEsc = .keep ∧ s.rxBuf.length + 2 = s.cfg.rxMax) ∧
    (∀ policy esc, ∃ s : State, s.rxMode = .frame ∧ s.rxEsc = esc ∧ s.cfg.badEsc = policy ∧ s.rxBuf.length = s.cfg.rxMax) :=
  ⟨fun policy esc => ⟨{ receiving [1, 2] esc 0 with cfg := ⟨3, policy, .none, 0⟩ }, rfl, rfl, rfl, rfl⟩,
   ⟨{ receiving [1] true 0 with cfg := ⟨3, .keep, .none, 0⟩ }, rfl, rfl, rfl, rfl⟩,
   fun policy esc => ⟨{ receiving [1, 2, 3] esc 0 with cfg := ⟨3, policy, .none, 0⟩ }, rfl, rfl, rfl, rfl⟩⟩

/-- WholeStreamDeliversItsIntervals: a stream with a delivery, whose interval fills the buffer exactly. -/
theorem witness_WholeStreamDeliversItsIntervals :
    (∀ interval ∈ completedIntervals [0x7E, 0xC0, 0x20, 0xDB, 0xDC, 0xC0, 0x00], (unescape .pass interval).length ≤ 2) ∧
    streamDeliveries .pass [0x7E, 0xC0, 0x20, 0xDB, 0xDC, 0xC0, 0x00] = [⟨2, [0xC0]⟩] := by decide

theorem witness_SentFrameIsReceived :
    ∃ t, exec (.kissData 13 [0xDB, 0xC0]) (State.resetWith ⟨3, .drop, .none, 0⟩) = .next t ∧
      ([0xDB, 0xC0] : List Byte).length + 1 ≤ 3 ∧ (13 : Nibble) ≠ 12 := ⟨_, rfl, by decide, by decide⟩

theorem witness_PortTwelveFrameIsMisread :
    (∃ t, exec (.kissSend 0xC0 [0x00, 0x41]) (State.resetWith ⟨2, .pass, .none, 0⟩) = .next t) ∧
    (0x00 : Byte).toNat % 16 = 0 ∧ (0xC1 : Byte).toNat % 16 ≠ 0 := ⟨⟨_, rfl⟩, by decide, by decide⟩

theorem witness_HeaderLaws :
    (addrB :: addrA :: [addrCq])[0]? = some addrB ∧ (addrB :: addrA :: [addrCq])[2]? = some addrCq := by decide

/-- AddressRoundTrip and the frame round trips: callsigns of one byte and of six. -/
theorem witness_round_trips :
    returns addrA ∧ returns addrN0call ∧
    (⟨0x9C, 0x60, 0x86, 0x82, 0x98, 0x98, 0x6B⟩ : AddrUnit).bytes = encAddr addrN0call true ∧
    State.reset.cfg.fcsMode = .none :=
  ⟨⟨by decide, by decide, by decide, by decide⟩, ⟨by decide, by decide, by decide, by decide⟩, by decide, rfl⟩

theorem witness_BuildUWithPidControlParsesNull :
    State.reset.cfg.fcsMode = .none ∧ ((0x03 : Byte) = 0x03) ∧ (0x10 : Byte).toNat % 2 = 0 := by decide

/-- ParseOutcomesAreComplete: no last bit; the first unit marked; the block at the frame's end; no PID; a PID; no PID taken. -/
theorem witness_ParseOutcomesAreComplete :
    (∀ j < (List.replicate 22 (0x40 : Byte)).length / 7, lastBitAt (List.replicate 22 0x40) j = false) ∧
    (0 < ([0x86, 0xA2, 0x40, 0x40, 0x40, 0x40, 0x61, 0x03, 0xF0] : List Byte).length / 7 ∧
      lastBitAt [0x86, 0xA2, 0x40, 0x40, 0x40, 0x40, 0x61, 0x03, 0xF0] 0 = true) ∧
    (lastBitAt headerH 1 = true ∧ lastBitAt headerH 0 = false ∧ 7 * (1 + 1) = headerH.length) ∧
    ((headerH ++ [0x00])[14]? = some 0x00 ∧ 7 * (1 + 1) + 1 = (headerH ++ [0x00]).length) ∧
    ((headerH ++ [0x03, 0xF0])[14]? = some 0x03 ∧ (headerH ++ [0x03, 0xF0])[15]? = some 0xF0) ∧
    ((headerH ++ [0x2F])[14]? = some 0x2F ∧ (0x2F : Byte) ≠ 0x03 ∧ (0x2F : Byte).toNat % 2 = 1) := by decide

theorem witness_ParseChecksTheFcsFirst :
    (∃ s : State, s.cfg.fcsMode = .crc16X25) ∧ ([0x41] : List Byte).length < 2 ∧
    256 * (0x78 : Byte).toNat + (0xF0 : Byte).toNat ≠ (crc16X25 [0x00]).toNat ∧
    256 * (0xF0 : Byte).toNat + (0x78 : Byte).toNat = (crc16X25 [0x00]).toNat :=
  ⟨⟨State.resetWith ⟨1024, .pass, .crc16X25, 0⟩, rfl⟩, by decide, by decide, by decide⟩

theorem witness_FcsCommandsReport :
    ([0x41] : List Byte).length < 2 ∧ ([0x00, 0x00] : List Byte) = [] ++ [0x00, 0x00] := by decide

theorem witness_CounterCommands : ∃ s t : State, exec .ctrClear s = .next t ∧ s.ctr ≠ t.ctr :=
  ⟨{ State.reset with ctr := ⟨1, 2, 3, 4, 5⟩ }, _, rfl, by decide⟩

end Sys2Proof.Tests
end

/-! ## Proofs: the whole machine (00_scope.md) -/

/-! ### What an instruction can do -/

namespace Sys2Proof.Machine

/-- Everything `exec` can do: `Effect s i t` says that `i` takes `s` to `t` by one composition of the shared operations.
A `report` appends a record that carries data only when its code is OK (R95); `parseNull` and `parseFcsBad` are PARSE's
outcomes without a frame (R190); the last four are the rows of the RX line and of its type bytes (R130, R132). -/
inductive Effect (s : State) : Instr → State → Prop
  | hold : Effect s .pidNoL3 s
  | report {i : Instr} (r : ResultRecord) (hdata : r.code ≠ .ok → r.data = []) : Effect s i (complete r s)
  | send {i : Instr} (bytes : List Byte) : Effect s i (completeOk [] (emit bytes s))
  | parseNull (frame : List Byte) : Effect s (.parse frame) (complete ⟨.parseNull, []⟩ (ctrInc .parseNull s))
  | parseFcsBad (frame : List Byte) : Effect s (.parse frame) (complete ⟨.fcsBad, []⟩ (ctrInc .fcsBad s))
  | clear : Effect s .ctrClear (completeOk [] { s with ctr := .zero })
  | lineReset : Effect s .lineReset (completeOk [] (lineReset s))
  | rxByte {i : Instr} (b : Byte) (hi : i.format = .kissRx) : Effect s i (rxByte b s)
  | typeData (port : Nibble) : Effect s (.kissTypeData port) (closeData port (s.rxBuf.drop 1) s)
  | typeTxdelay (port : Nibble) : Effect s (.kissTypeTxdelay port) (closeNondata s)
  | typeNondata (port cmd : Nibble) : Effect s (.kissTypeNondata port cmd) (closeNondata s)

/-- A command that ends in `OK` and only reports. -/
theorem Effect.reportOk {s : State} {i : Instr} (data : List Byte) : Effect s i (completeOk data s) :=
  .report ⟨.ok, data⟩ (absurd rfl)

/-- Every instruction completes (R240) with one of the effects. -/
theorem exec_effect (i : Instr) (s : State) : ∃ t, exec i s = .next t ∧ Effect s i t := by
  cases i with
  | kissSend type payload => exact ⟨_, rfl, .send _⟩
  | kissSetTxdelay ms => exact ⟨_, rfl, .send _⟩
  | kissData port payload => exact ⟨_, rfl, .send _⟩
  | lineReset => exact ⟨_, rfl, .lineReset⟩
  | parse frame =>
    rcases execParse_cases frame s with ⟨-, h⟩ | ⟨-, h⟩ | ⟨p, -, h⟩
    · exact ⟨_, h, .parseNull frame⟩
    · exact ⟨_, h, .parseFcsBad frame⟩
    · exact ⟨_, h, .reportOk _⟩
  | fcsCheck data =>
    obtain ⟨report, h⟩ := execFcsCheck_reports data s
    exact ⟨_, h, .reportOk report⟩
  | ctrClear => exact ⟨_, rfl, .clear⟩
  | reservedOp op rest => exact ⟨_, rfl, .report _ fun _ => rfl⟩
  | rxHuntFend => exact ⟨_, rfl, .rxByte fend rfl⟩
  | rxHuntOther b => exact ⟨_, rfl, .rxByte b rfl⟩
  | rxFrameFend => exact ⟨_, rfl, .rxByte fend rfl⟩
  | rxFrameFesc => exact ⟨_, rfl, .rxByte fesc rfl⟩
  | rxFrameOther b => exact ⟨_, rfl, .rxByte b rfl⟩
  | rxEscTfend => exact ⟨_, rfl, .rxByte tfend rfl⟩
  | rxEscTfesc => exact ⟨_, rfl, .rxByte tfesc rfl⟩
  | rxEscOther b => exact ⟨_, rfl, .rxByte b rfl⟩
  | kissTypeData port => exact ⟨_, rfl, .typeData port⟩
  | kissTypeTxdelay port => exact ⟨_, rfl, .typeTxdelay port⟩
  | kissTypeNondata port cmd => exact ⟨_, rfl, .typeNondata port cmd⟩
  | pidNoL3 => exact ⟨_, rfl, .hold⟩
  | _ => exact ⟨_, rfl, .reportOk _⟩

/-- `put` does not leave the frame (R131). -/
theorem put_rxMode (v : Byte) (s : State) : (put v s).rxMode = s.rxMode := by
  obtain ⟨buf, ovf, h⟩ := put_frame v s
  rw [h]

/-- A step with an input that decodes is `exec` of what it decodes to. -/
theorem step_of_decode (s : State) (input : Input) (rest : List Input) (i : Instr) (hin : s.inputs = input :: rest)
    (hd : decodeInput s input = .ok i) : step s = exec i { s with inputs := rest } := by
  simp only [step, hin, hd]

/-- A step with no input holds the state (R247). -/
theorem step_of_no_input (s : State) (hin : s.inputs = []) : step s = .next s := by
  simp only [step, hin, idle]

end Sys2Proof.Machine

/-! ### The invariant through each operation -/

namespace Sys2Proof.Safety

open Sys2Proof.Machine

/-- The reset state of admissible parameters has the invariant (R34). -/
theorem Inv.resetWith {cfg : Config} (h : cfg.wf) : Inv (State.resetWith cfg) :=
  { cfg := h
    buffer := Nat.zero_le _
    hunt := fun _ => ⟨rfl, rfl, rfl⟩
    overrun := nofun
    results := nofun
    delivered := nofun }

variable {s : State}

/-- The floor of `RX_MAX` leaves room for a byte (R7). -/
theorem Inv.rxMax_pos (h : Inv s) : 0 < s.cfg.rxMax :=
  Nat.lt_of_lt_of_le (by decide : 0 < rxMaxFloor) h.cfg

/-- The invariant speaks neither of the counters nor of the TX line nor of the inputs to come. -/
theorem Inv.with_unread (h : Inv s) (ctr : Counters) (txLine : List Byte) (inputs : List Input) :
    Inv { s with ctr := ctr, txLine := txLine, inputs := inputs } :=
  ⟨h.cfg, h.buffer, h.hunt, h.overrun, h.results, h.delivered⟩

theorem Inv.ctrInc (h : Inv s) (n : CtrId) : Inv (ctrInc n s) := h.with_unread _ _ _

theorem Inv.complete (h : Inv s) {r : ResultRecord} (hr : r.code ≠ .ok → r.data = []) : Inv (complete r s) where
  cfg := h.cfg
  buffer := h.buffer
  hunt := h.hunt
  overrun := h.overrun
  delivered := h.delivered
  results x hx := by
    rw [complete_results, List.mem_append, List.mem_singleton] at hx
    rcases hx with hx | rfl
    · exact h.results x hx
    · exact hr

theorem Inv.completeOk (h : Inv s) (data : List Byte) : Inv (completeOk data s) := h.complete (absurd rfl)

theorem Inv.lineReset (h : Inv s) : Inv (lineReset s) :=
  ⟨h.cfg, Nat.zero_le _, fun _ => ⟨rfl, rfl, rfl⟩, nofun, h.results, h.delivered⟩

theorem Inv.openFrame (h : Inv s) : Inv (openFrame s) :=
  ⟨h.cfg, Nat.zero_le _, nofun, nofun, h.results, h.delivered⟩

theorem Inv.closeData (h : Inv s) (port : Nibble) {payload : List Byte} (hp : payload.length < s.cfg.rxMax) :
    Inv (closeData port payload s) where
  cfg := h.cfg
  buffer := h.buffer
  hunt := h.hunt
  overrun := h.overrun
  results := h.results
  delivered f hf := by
    rw [closeData_rxOut, List.mem_append, List.mem_singleton] at hf
    rcases hf with hf | rfl
    · exact h.delivered f hf
    · exact hp

/-- The type byte takes one of the `RX_MAX` places, so the payload of a completed frame is shorter (R131, R132). -/
theorem Inv.closeFrame (h : Inv s) : Inv (closeFrame s) := by
  rcases closeFrame_cases s with ⟨-, hc⟩ | ⟨-, -, hc⟩ | ⟨t, payload, -, hbuf, -, hc⟩ | ⟨t, payload, -, -, -, hc⟩ <;> rw [hc]
  · exact h.ctrInc _
  · exact h
  · have hroom : (t :: payload).length ≤ s.cfg.rxMax := hbuf ▸ h.buffer
    exact h.closeData _ hroom
  · exact h.ctrInc _

/-- Inside a frame the invariant's clause about HUNT says nothing. -/
theorem ne_hunt_of_frame (hm : s.rxMode = .frame) : s.rxMode ≠ .hunt := by simp [hm]

/-- Inside a frame an escape may be pending (R25). -/
theorem Inv.with_rxEsc (h : Inv s) (hm : s.rxMode = .frame) (esc : Bool) : Inv { s with rxEsc := esc } :=
  ⟨h.cfg, h.buffer, (absurd · (ne_hunt_of_frame hm)), h.overrun, h.results, h.delivered⟩

/-- Inside a frame `put` appends while there is room and marks the overrun of a full buffer (R131). -/
theorem Inv.put (h : Inv s) (hm : s.rxMode = .frame) (v : Byte) : Inv (put v s) := by
  have notHunt := ne_hunt_of_frame hm
  rcases put_cases v s with ⟨hroom, hp⟩ | ⟨hfull, hp⟩ <;> rw [hp]
  · refine ⟨h.cfg, ?_, (absurd · notHunt), fun hovf => ?_, h.results, h.delivered⟩
    · simpa using hroom
    · exact absurd (h.overrun hovf) (Nat.ne_of_lt hroom)
  · exact ⟨h.cfg, h.buffer, (absurd · notHunt), fun _ => Nat.le_antisymm h.buffer hfull, h.results, h.delivered⟩

theorem Inv.putAll (h : Inv s) (hm : s.rxMode = .frame) (bytes : List Byte) : Inv (putAll bytes s) := by
  induction bytes generalizing s with
  | nil => exact h
  | cons v rest ih => exact ih (h.put hm v) ((put_rxMode v s).trans hm)

/-- RX_BYTE keeps the invariant, in every mode and for every byte (R130). -/
theorem Inv.rxByte (h : Inv s) (b : Byte) : Inv (rxByte b s) := by
  rcases rxByte_cases b s with ⟨-, -, hb⟩ | ⟨-, -, hb⟩ | ⟨-, -, hb⟩ | ⟨hm, -, hb⟩ <;> rw [hb]
  · exact h.openFrame
  · exact h
  · exact h.closeFrame.openFrame
  · exact (h.with_rxEsc hm (unescStep s.cfg.badEsc s.rxEsc b).1).putAll hm _

/-- The invariant is kept by every effect an instruction can have. -/
theorem Inv.effect (h : Inv s) {i : Instr} {t : State} (he : Effect s i t) : Inv t := by
  cases he with
  | hold => exact h
  | report r hdata => exact h.complete hdata
  | send bytes => exact (h.with_unread _ _ _).completeOk []
  | parseNull frame => exact (h.ctrInc _).complete fun _ => rfl
  | parseFcsBad frame => exact (h.ctrInc _).complete fun _ => rfl
  | clear => exact (h.with_unread _ _ _).completeOk []
  | lineReset => exact h.lineReset.completeOk []
  | rxByte b hi => exact h.rxByte b
  | typeData port =>
    have hroom : (s.rxBuf.drop 1).length < s.cfg.rxMax := by
      have := h.buffer
      have := h.rxMax_pos
      rw [List.length_drop]
      omega
    exact h.closeData port hroom
  | typeTxdelay port => exact h.ctrInc _
  | typeNondata port cmd => exact h.ctrInc _

/-- The invariant is kept by every instruction. -/
theorem Inv.exec (h : Inv s) {i : Instr} {t : State} (hexec : exec i s = .next t) : Inv t := by
  obtain ⟨u, hu, he⟩ := exec_effect i s
  cases hu.symm.trans hexec
  exact h.effect he

/-- The invariant is kept by every step. -/
theorem Inv.step (h : Inv s) {t : State} (hstep : step s = .next t) : Inv t := by
  rcases step_cases s with ⟨-, hs⟩ | ⟨input, rest, f, -, -, hs⟩ | ⟨input, rest, i, -, -, hs⟩ <;> rw [hs] at hstep
  · cases hstep
    exact h
  · cases hstep
    exact (h.with_unread s.ctr s.txLine rest).complete fun _ => rfl
  · exact (h.with_unread s.ctr s.txLine rest).exec hstep

end Sys2Proof.Safety

/-! ### The statements of 00_scope.md -/

namespace Sys2Proof.Scope

open Sys2Proof.Machine Sys2Proof.Safety

/-- Settles O8: each case of a step is one of the operations through which the invariant passes. -/
theorem everyStepKeepsInvariant : Obligations.EveryStepKeepsInvariant :=
  fun _ _ hinv hstep => hinv.step hstep

/-- Settles O2: a command record and an RX byte are the two inputs `decodeInput` reads. -/
theorem stepPerformsTheNextInput : Obligations.StepPerformsTheNextInput := by
  refine ⟨fun s rest record i hin hd => ?_, fun s rest b hin => ?_, step_of_no_input⟩
  · exact step_of_decode s (.command record) rest i hin hd
  · exact step_of_decode s (.rxByte b) rest _ hin rfl

/-- Settles O7: State.reset is the reset state of the reference parameters, which are admissible. -/
theorem resetMeetsInvariant : Obligations.ResetMeetsInvariant :=
  ⟨Inv.resetWith (by decide), fun _ hcfg => Inv.resetWith hcfg⟩

end Sys2Proof.Scope

/-! ## Proofs: the state (10_state.md) -/

/-! ### What a command record can decode to -/

namespace Sys2Proof

/-- Whatever instruction a reader answers has the property. -/
def Answers (P : Instr → Prop) (x : Except FaultCode Instr) : Prop := ∀ i, x = .ok i → P i

variable {P : Instr → Prop}

theorem Answers.finish {i : Instr} (hi : P i) (rest : List Byte) : Answers P (finish i rest) := by
  intro j hj
  obtain ⟨-, rfl⟩ := (finish_eq_ok i j rest).1 hj
  exact hi

/-- The last reader of a sequence decides what the sequence answers. -/
theorem Answers.andThen {α : Type} {x : Read α} {k : α → List Byte → Except FaultCode Instr}
    (hk : ∀ a rest, Answers P (k a rest)) : Answers P (andThen x k) := by
  intro i hi
  obtain ⟨a, rest, -, hrest⟩ := (andThen_eq_ok x k i).1 hi
  exact hk a rest i hrest

theorem Answers.readData {make : List Byte → Instr} (hmake : ∀ data, P (make data)) (rest : List Byte) :
    Answers P (readData make rest) :=
  .andThen fun data rest => .finish (hmake data) rest

theorem Answers.readRoute {rest : List Byte} {k : Addr → Addr → List Addr → List Byte → Except FaultCode Instr}
    (hk : ∀ src dest path rest, Answers P (k src dest path rest)) : Answers P (readRoute rest k) :=
  .andThen fun src _ => .andThen fun dest _ => .andThen fun path rest => hk src dest path rest

/-- An instruction of the host's port whose record begins with the OP of `o` (R80, R82). -/
def Instr.IsCommandOf (o : Op) (i : Instr) : Prop := i.format = .cmd ∧ (encode i).head? = some o.code

/-- The operands of an operation decode to a command of that operation. -/
theorem decodeOperands_isCommandOf (o : Op) (rest : List Byte) : Answers (Instr.IsCommandOf o) (decodeOperands o rest) := by
  cases o with
  | kissSend => exact .andThen fun _ rest => .readData (fun _ => ⟨rfl, rfl⟩) rest
  | kissSetTxdelay => exact .andThen fun _ rest => .finish ⟨rfl, rfl⟩ rest
  | kissEscape => exact .readData (fun _ => ⟨rfl, rfl⟩) rest
  | kissUnescape => exact .readData (fun _ => ⟨rfl, rfl⟩) rest
  | lineReset => exact .finish ⟨rfl, rfl⟩ rest
  | encAddr => exact .andThen fun _ _ => .andThen fun _ rest => .finish ⟨rfl, rfl⟩ rest
  | buildHeader => exact .readRoute fun _ _ _ rest => .finish ⟨rfl, rfl⟩ rest
  | buildUi => exact .readRoute fun _ _ _ rest => .readData (fun _ => ⟨rfl, rfl⟩) rest
  | buildU => exact .readRoute fun _ _ _ _ => .andThen fun _ rest => .finish ⟨rfl, rfl⟩ rest
  | buildI =>
    exact .readRoute fun _ _ _ _ => .andThen fun _ _ => .andThen fun _ rest => .readData (fun _ => ⟨rfl, rfl⟩) rest
  | decAddr => exact .andThen fun _ rest => .finish ⟨rfl, rfl⟩ rest
  | parse => exact .readData (fun _ => ⟨rfl, rfl⟩) rest
  | classify => exact .andThen fun _ rest => .finish ⟨rfl, rfl⟩ rest
  | fcsCalc => exact .readData (fun _ => ⟨rfl, rfl⟩) rest
  | fcsCheck => exact .readData (fun _ => ⟨rfl, rfl⟩) rest
  | ctrRead => exact .andThen fun _ rest => .finish ⟨rfl, rfl⟩ rest
  | ctrClear => exact .finish ⟨rfl, rfl⟩ rest

/-- A record that decodes begins with the OP of an operation whose operands follow, or with a reserved OP (R82, R83). -/
theorem decodeRecord_eq_ok {record : List Byte} {i : Instr} (h : decodeRecord record = .ok i) :
    (∃ o rest, record = o.code :: rest ∧ decodeOperands o rest = .ok i) ∨
    (∃ op rest, record = op :: rest ∧ i = .reservedOp op rest) := by
  cases record with
  | nil => nomatch h
  | cons op rest =>
    simp only [decodeRecord] at h
    split at h
    case h_1 o ho => exact .inl ⟨o, rest, by rw [(opOfByte_eq_some op o).1 ho], h⟩
    case h_2 => exact .inr ⟨op, rest, rfl, (Except.ok.inj h).symm⟩

/-- A record decodes to a command of R82 or R83 and to no other row of the table. -/
theorem decodeRecord_format {record : List Byte} {i : Instr} (h : decodeRecord record = .ok i) : i.format = .cmd := by
  rcases decodeRecord_eq_ok h with ⟨o, rest, -, ho⟩ | ⟨op, rest, -, rfl⟩
  · exact (decodeOperands_isCommandOf o rest i ho).1
  · rfl

/-- The one record of CTR_CLEAR is its OP alone (R82, R84). -/
theorem decodeRecord_ctrClear {record : List Byte} (h : decodeRecord record = .ok .ctrClear) : record = [0x31] := by
  rcases decodeRecord_eq_ok h with ⟨o, rest, rfl, ho⟩ | ⟨op, rest, -, hi⟩
  · have hcode : some (0x31 : Byte) = some o.code := (decodeOperands_isCommandOf o rest _ ho).2
    obtain rfl : o = .ctrClear := by
      have := opOfByte_code o
      rw [← Option.some.inj hcode] at this
      exact (Option.some.inj this).symm
    obtain ⟨rfl, -⟩ := (finish_eq_ok _ _ rest).1 ho
    rfl
  · nomatch hi

/-! ### Number fields out of range -/

/-- N(S) or N(R) above 7 is refused (R81). -/
theorem readSeq_cons_of_gt (b : Byte) (rest : List Byte) (h : 7 < b.toNat) : readSeq (b :: rest) = .error .badSeq := by
  simp [readSeq, h]

theorem readSeq_cons_of_le (b : Byte) (rest : List Byte) (h : b.toNat ≤ 7) :
    readSeq (b :: rest) = .ok (b.setWidth 3, rest) := by
  simp [readSeq, Nat.not_lt.2 h]

theorem CtrId.number_le (n : CtrId) : n.number.toNat ≤ 4 := by
  cases n <;> decide

/-- No counter has a number above 4 (R23). -/
theorem ctrOfNumber_of_gt (n : Byte) (h : 4 < n.toNat) : ctrOfNumber n = none := by
  refine List.find?_eq_none.2 fun c _ hc => ?_
  obtain rfl : c.number = n := by simpa using hc
  exact Nat.not_lt.2 c.number_le h

/-- A counter number above 4 is refused (R81, R220). -/
theorem readCtr_cons_of_gt (n : Byte) (rest : List Byte) (h : 4 < n.toNat) : readCtr (n :: rest) = .error .badCtr := by
  simp [readCtr, ctrOfNumber_of_gt n h]

/-- A record of CTR_READ with nothing behind the number names that counter (R82, R220). -/
theorem decodeRecord_ctrRead (n : CtrId) : decodeRecord [0x30, n.number] = .ok (.ctrRead n) := by
  rw [← show Op.ctrRead.code = 0x30 from rfl, decodeRecord_code, decodeOperands, readCtr_cons, andThen_ok, finish_nil]

end Sys2Proof

/-! ### What an RX byte does to the ports and the counters -/

namespace Sys2Proof.Machine

@[simp] theorem rxByte_txLine (b : Byte) (s : State) : (rxByte b s).txLine = s.txLine := by
  obtain ⟨mode, esc, buf, ovf, ctr, out, h⟩ := rxByte_frame b s
  rw [h]

@[simp] theorem rxByte_results (b : Byte) (s : State) : (rxByte b s).results = s.results := by
  obtain ⟨mode, esc, buf, ovf, ctr, out, h⟩ := rxByte_frame b s
  rw [h]

/-- Everything `close_frame` can do to the RX frame port and the counters: nothing, one frame delivered and counted, or one
other counter (R132). -/
theorem closeFrame_outcome (s : State) :
    ((closeFrame s).rxOut = s.rxOut ∧ (closeFrame s).ctr = s.ctr) ∨
    (∃ f, (closeFrame s).rxOut = s.rxOut ++ [f] ∧ (closeFrame s).ctr = s.ctr.inc .rxData) ∨
    ((closeFrame s).rxOut = s.rxOut ∧
      ((closeFrame s).ctr = s.ctr.inc .rxNondata ∨ (closeFrame s).ctr = s.ctr.inc .rxOverrun)) := by
  rcases closeFrame_cases s with ⟨-, h⟩ | ⟨-, -, h⟩ | ⟨t, payload, -, -, -, h⟩ | ⟨t, payload, -, -, -, h⟩ <;> rw [h]
  · exact .inr (.inr ⟨rfl, .inr rfl⟩)
  · exact .inl ⟨rfl, rfl⟩
  · exact .inr (.inl ⟨_, rfl, rfl⟩)
  · exact .inr (.inr ⟨rfl, .inl rfl⟩)

/-- RX_BYTE leaves the RX frame port and the counters alone, unless it is a FEND that closes a frame (R130). -/
theorem rxByte_outcome (b : Byte) (s : State) :
    ((rxByte b s).rxOut = s.rxOut ∧ (rxByte b s).ctr = s.ctr) ∨
    (b = fend ∧ (rxByte b s).rxOut = (closeFrame s).rxOut ∧ (rxByte b s).ctr = (closeFrame s).ctr) := by
  rcases rxByte_cases b s with ⟨-, -, h⟩ | ⟨-, -, h⟩ | ⟨-, hb, h⟩ | ⟨-, -, h⟩
  · exact .inl (by rw [h]; exact ⟨rfl, rfl⟩)
  · exact .inl (by rw [h]; exact ⟨rfl, rfl⟩)
  · exact .inr ⟨hb, by rw [h]; exact ⟨rfl, rfl⟩⟩
  · obtain ⟨buf, ovf, hput⟩ := putAll_frame (unescStep s.cfg.badEsc s.rxEsc b).2
      { s with rxEsc := (unescStep s.cfg.badEsc s.rxEsc b).1 }
    exact .inl (by rw [h, hput]; exact ⟨rfl, rfl⟩)

/-! ### The output ports grow (R27, R28, R29) -/

/-- Each output port of `t` is the port of `s` with nothing or something more at its end. -/
structure OutputsGrow (s t : State) : Prop where
  txLine : s.txLine <+: t.txLine
  rxOut : s.rxOut <+: t.rxOut
  results : s.results <+: t.results

variable {s t : State} {i : Instr}

/-- An operation that leaves the three ports as they are. -/
theorem OutputsGrow.of_ports_eq (htx : t.txLine = s.txLine) (hout : t.rxOut = s.rxOut) (hres : t.results = s.results) :
    OutputsGrow s t :=
  ⟨by rw [htx], by rw [hout], by rw [hres]⟩

/-- An operation that appends one result record and leaves the other two ports. -/
theorem OutputsGrow.of_one_result {r : ResultRecord} (htx : t.txLine = s.txLine) (hout : t.rxOut = s.rxOut)
    (hres : t.results = s.results ++ [r]) : OutputsGrow s t :=
  ⟨by rw [htx], by rw [hout], by rw [hres]; exact List.prefix_append _ _⟩

theorem outputsGrow_send (bytes : List Byte) (s : State) : OutputsGrow s (completeOk [] (emit bytes s)) :=
  ⟨List.prefix_append _ _, List.prefix_rfl, List.prefix_append _ _⟩

theorem outputsGrow_closeData (port : Nibble) (payload : List Byte) (s : State) :
    OutputsGrow s (closeData port payload s) :=
  ⟨List.prefix_rfl, List.prefix_append _ _, List.prefix_rfl⟩

theorem outputsGrow_rxByte (b : Byte) (s : State) : OutputsGrow s (rxByte b s) where
  txLine := by rw [rxByte_txLine]
  results := by rw [rxByte_results]
  rxOut := by
    rcases rxByte_outcome b s with ⟨hout, -⟩ | ⟨-, hout, -⟩ <;> rw [hout]
    rcases closeFrame_outcome s with ⟨hclose, -⟩ | ⟨f, hclose, -⟩ | ⟨hclose, -⟩ <;> rw [hclose]
    exact List.prefix_append _ _

/-- Every effect of an instruction lets the output ports grow. -/
theorem Effect.outputsGrow (he : Effect s i t) : OutputsGrow s t := by
  cases he with
  | hold => exact .of_ports_eq rfl rfl rfl
  | report r => exact .of_one_result rfl rfl rfl
  | send bytes => exact outputsGrow_send bytes s
  | parseNull => exact .of_one_result rfl rfl rfl
  | parseFcsBad => exact .of_one_result rfl rfl rfl
  | clear => exact .of_one_result rfl rfl rfl
  | lineReset => exact .of_one_result rfl rfl rfl
  | rxByte b => exact outputsGrow_rxByte b s
  | typeData port => exact outputsGrow_closeData port _ s
  | typeTxdelay => exact .of_ports_eq rfl rfl rfl
  | typeNondata => exact .of_ports_eq rfl rfl rfl

/-! ### What a command does (R32, R33, R95) -/

/-- A command but LINE_RESET writes the counters and the TX line, appends one result record, which carries data only when
its code is OK, and writes nothing else. -/
theorem Effect.command_frame (he : Effect s i t) (hi : i.format = .cmd) (hne : i ≠ .lineReset) :
    ∃ ctr txLine r, (r.code ≠ .ok → r.data = []) ∧
      t = { s with ctr := ctr, txLine := txLine, results := s.results ++ [r] } := by
  cases he with
  | report r hdata => exact ⟨s.ctr, s.txLine, r, hdata, rfl⟩
  | send bytes => exact ⟨s.ctr, _, ⟨.ok, []⟩, fun _ => rfl, rfl⟩
  | parseNull => exact ⟨_, s.txLine, ⟨.parseNull, []⟩, fun _ => rfl, rfl⟩
  | parseFcsBad => exact ⟨_, s.txLine, ⟨.fcsBad, []⟩, fun _ => rfl, rfl⟩
  | clear => exact ⟨_, s.txLine, ⟨.ok, []⟩, fun _ => rfl, rfl⟩
  | lineReset => exact absurd rfl hne
  | rxByte b hrx => exact absurd (hrx.symm.trans hi) (by decide)
  | hold => nomatch hi
  | typeData => nomatch hi
  | typeTxdelay => nomatch hi
  | typeNondata => nomatch hi

/-- What a step that performs a command record does: LINE_RESET puts the unframer back; any other record, refused or not,
writes no more than `Effect.command_frame` says. -/
theorem step_command_cases {record : List Byte} {rest : List Input} (hin : s.inputs = .command record :: rest)
    (hstep : step s = .next t) :
    (decodeRecord record = .ok .lineReset ∧ t = completeOk [] (lineReset { s with inputs := rest })) ∨
    (decodeRecord record ≠ .ok .lineReset ∧ ∃ ctr txLine r, (r.code ≠ .ok → r.data = []) ∧
      t = { s with ctr := ctr, txLine := txLine, results := s.results ++ [r], inputs := rest }) := by
  simp only [step, hin, decodeInput] at hstep
  cases hd : decodeRecord record with
  | error f =>
    simp only [hd] at hstep
    cases hstep
    exact .inr ⟨nofun, s.ctr, s.txLine, ⟨.fault f, []⟩, fun _ => rfl, rfl⟩
  | ok i =>
    simp only [hd] at hstep
    by_cases hi : i = .lineReset
    · subst hi
      cases hstep
      exact .inl ⟨rfl, rfl⟩
    · obtain ⟨u, hu, he⟩ := exec_effect i { s with inputs := rest }
      cases hu.symm.trans hstep
      exact .inr ⟨fun h => hi (Except.ok.inj h), he.command_frame (decodeRecord_format hd) hi⟩

/-! ### Deliveries and RX_DATA (R23, R132) -/

/-- `t` has some frames more on the RX frame port than `s`, and RX_DATA has counted them modulo 2^16. -/
def CountsDeliveries (s t : State) : Prop :=
  ∃ frames, t.rxOut = s.rxOut ++ frames ∧ t.ctr.rxData = s.ctr.rxData + BitVec.ofNat 16 frames.length

theorem CountsDeliveries.of_none (hout : t.rxOut = s.rxOut) (hctr : t.ctr.rxData = s.ctr.rxData) : CountsDeliveries s t :=
  ⟨[], by simp [hout], by simp [hctr]⟩

theorem CountsDeliveries.of_one {f : RxFrame} (hout : t.rxOut = s.rxOut ++ [f]) (hctr : t.ctr.rxData = s.ctr.rxData + 1) :
    CountsDeliveries s t :=
  ⟨[f], hout, hctr⟩

/-- The number of frames counted is the growth of the port. -/
theorem CountsDeliveries.rxData_eq (h : CountsDeliveries s t) :
    t.ctr.rxData = s.ctr.rxData + BitVec.ofNat 16 (t.rxOut.length - s.rxOut.length) := by
  obtain ⟨frames, hout, hctr⟩ := h
  rw [hctr, hout, List.length_append, Nat.add_sub_cancel_left]

theorem countsDeliveries_closeFrame (s : State) : CountsDeliveries s (closeFrame s) := by
  rcases closeFrame_outcome s with ⟨hout, hctr⟩ | ⟨f, hout, hctr⟩ | ⟨hout, hctr | hctr⟩
  · exact .of_none hout (by rw [hctr])
  · exact .of_one hout (by rw [hctr]; rfl)
  · exact .of_none hout (by rw [hctr]; rfl)
  · exact .of_none hout (by rw [hctr]; rfl)

theorem countsDeliveries_rxByte (b : Byte) (s : State) : CountsDeliveries s (rxByte b s) := by
  rcases rxByte_outcome b s with ⟨hout, hctr⟩ | ⟨-, hout, hctr⟩
  · exact .of_none hout (by rw [hctr])
  · obtain ⟨frames, hframes, hcount⟩ := countsDeliveries_closeFrame s
    exact ⟨frames, hout.trans hframes, by rw [hctr, hcount]⟩

/-- CTR_CLEAR is the only instruction that breaks the count of the delivered frames. -/
theorem Effect.countsDeliveries (he : Effect s i t) (hne : i ≠ .ctrClear) : CountsDeliveries s t := by
  cases he with
  | clear => exact absurd rfl hne
  | rxByte b => exact countsDeliveries_rxByte b s
  | typeData => exact .of_one rfl rfl
  | hold => exact .of_none rfl rfl
  | report => exact .of_none rfl rfl
  | send => exact .of_none rfl rfl
  | parseNull => exact .of_none rfl rfl
  | parseFcsBad => exact .of_none rfl rfl
  | lineReset => exact .of_none rfl rfl
  | typeTxdelay => exact .of_none rfl rfl
  | typeNondata => exact .of_none rfl rfl

/-- An input decodes to CTR_CLEAR only when it is the record 0x31 (R82, R130). -/
theorem decodeInput_ctrClear {input : Input} (h : decodeInput s input = .ok .ctrClear) : input = .command [0x31] := by
  cases input with
  | command record => rw [decodeRecord_ctrClear h]
  | rxByte b =>
    have hformat : (decodeRx s.rxMode s.rxEsc b).format = .kissRx := by
      unfold decodeRx
      repeat' split
      all_goals rfl
    rw [Except.ok.inj h] at hformat
    nomatch hformat

/-! ### The unframer in HUNT (R130) -/

theorem rxByte_hunt_fend (hm : s.rxMode = .hunt) : rxByte fend s = openFrame s := by
  simp [rxByte, hm]

theorem rxByte_hunt_other {b : Byte} (hm : s.rxMode = .hunt) (hb : b ≠ fend) : rxByte b s = s := by
  simp [rxByte, hm, hb]

/-! ### A 16-bit value in a result (R97) -/

/-- The high byte is the quotient by 256 and the low byte the remainder. -/
theorem word16Bytes_eq (w : Word16) :
    word16Bytes w = [BitVec.ofNat 8 (w.toNat / 256), BitVec.ofNat 8 (w.toNat % 256)] := by
  have hhigh : w.extractLsb' 8 8 = BitVec.ofNat 8 (w.toNat / 256) := by
    apply BitVec.eq_of_toNat_eq
    simp [Nat.shiftRight_eq_div_pow]
  have hlow : w.extractLsb' 0 8 = BitVec.ofNat 8 (w.toNat % 256) := by
    apply BitVec.eq_of_toNat_eq
    simp
  rw [word16Bytes, hhigh, hlow]

end Sys2Proof.Machine

/-! ### The statements of 10_state.md -/

namespace Sys2Proof.StateRules

open Sys2Proof.Machine Sys2Proof.Safety

/-- Settles O4: each case of a step takes one input off and keeps the parameters. -/
theorem everyStepCompletes : Obligations.EveryStepCompletes := by
  intro s
  rcases step_cases s with ⟨hin, hs⟩ | ⟨input, rest, f, hin, -, hs⟩ | ⟨input, rest, i, hin, -, hs⟩ <;> rw [hs, hin]
  · exact ⟨s, rfl, hin, rfl⟩
  · exact ⟨_, rfl, rfl, rfl⟩
  · obtain ⟨t, ht, hcfg, hinputs⟩ := exec_keepsRun i { s with inputs := rest }
    exact ⟨t, ht, hinputs, hcfg⟩

/-- Settles O5: a held state, a fault record and every effect of an instruction let the ports grow. -/
theorem outputsOnlyGrow : Obligations.OutputsOnlyGrow := by
  intro s t hstep
  have hgrow : OutputsGrow s t := by
    rcases step_cases s with ⟨-, hs⟩ | ⟨input, rest, f, -, -, hs⟩ | ⟨input, rest, i, -, -, hs⟩ <;> rw [hs] at hstep
    · cases hstep
      exact .of_ports_eq rfl rfl rfl
    · cases hstep
      exact .of_one_result rfl rfl rfl
    · obtain ⟨u, hu, he⟩ := exec_effect i { s with inputs := rest }
      cases hu.symm.trans hstep
      obtain ⟨htx, hout, hres⟩ := he.outputsGrow
      exact ⟨htx, hout, hres⟩
  exact ⟨hgrow.txLine, hgrow.rxOut, hgrow.results⟩

/-- Settles O6: by the cases of a command step; an RX byte is RX_BYTE, which keeps the results. -/
theorem eachCommandAppendsOneResult : Obligations.EachCommandAppendsOneResult := by
  intro s t hstep
  refine ⟨fun record rest hin => ?_, fun b rest hin => ?_⟩
  · rcases step_command_cases hin hstep with ⟨-, rfl⟩ | ⟨-, ctr, txLine, r, hdata, rfl⟩
    · exact ⟨⟨.ok, []⟩, rfl, fun _ => rfl⟩
    · exact ⟨r, rfl, hdata⟩
  · rw [step_rxByte s b rest hin] at hstep
    cases hstep
    exact rxByte_results b _

/-- Settles O9: by the cases of a command step. -/
theorem commandsKeepTheUnframer : Obligations.CommandsKeepTheUnframer := by
  intro s t record rest hin hstep
  rcases step_command_cases hin hstep with ⟨hd, rfl⟩ | ⟨hd, ctr, txLine, r, -, rfl⟩
  · exact ⟨rfl, (absurd hd ·), fun _ => ⟨rfl, rfl, rfl, rfl⟩⟩
  · exact ⟨rfl, fun _ => ⟨rfl, rfl, rfl, rfl⟩, (absurd · hd)⟩

/-- Settles O11: every effect but CTR_CLEAR's counts the frames it delivers, and only the record 0x31 is CTR_CLEAR. -/
theorem deliveriesAreCounted : Obligations.DeliveriesAreCounted := by
  intro s t hstep hhead
  refine CountsDeliveries.rxData_eq ?_
  rcases step_cases s with ⟨-, hs⟩ | ⟨input, rest, f, -, -, hs⟩ | ⟨input, rest, i, hin, hd, hs⟩ <;> rw [hs] at hstep
  · cases hstep
    exact .of_none rfl rfl
  · cases hstep
    exact .of_none rfl rfl
  · have hne : i ≠ .ctrClear := by
      rintro rfl
      rw [hin, decodeInput_ctrClear hd] at hhead
      exact hhead rfl
    obtain ⟨u, hu, he⟩ := exec_effect i { s with inputs := rest }
    cases hu.symm.trans hstep
    exact he.countsDeliveries hne

/-- Settles O24: the route is read back, and the readers of the number fields refuse what is out of range. -/
theorem numberFieldChecks : Obligations.NumberFieldChecks := by
  refine ⟨fun src dest path ns nr rest hroute => ⟨fun hns => ?_, fun hns hnr => ?_⟩, decodeRecord_ctrRead .rxData,
    decodeRecord_ctrRead .rxNondata, decodeRecord_ctrRead .rxOverrun, decodeRecord_ctrRead .parseNull,
    decodeRecord_ctrRead .fcsBad, fun n rest hn => ?_⟩
  · rw [← show Op.buildI.code = 0x14 from rfl, decodeRecord_code, decodeOperands, readRoute_fields _ _ _ _ _ hroute,
      readSeq_cons_of_gt ns rest hns, andThen_error]
  · rw [← show Op.buildI.code = 0x14 from rfl, decodeRecord_code, decodeOperands, readRoute_fields _ _ _ _ _ hroute,
      readSeq_cons_of_le ns _ hns, andThen_ok, readSeq_cons_of_gt nr rest hnr, andThen_error]
  · rw [← show Op.ctrRead.code = 0x30 from rfl, decodeRecord_code, decodeOperands, readCtr_cons_of_gt n rest hn,
      andThen_error]

/-- Settles O1: State.resetWith names each field's value, and applyReset is built from it. -/
theorem resetLeavesTheSpecValues : Obligations.ResetLeavesTheSpecValues :=
  ⟨fun _ => ⟨rfl, rfl, rfl, rfl, ctr_get_zero, rfl, rfl, rfl⟩, rfl, fun _ => rfl⟩

/-- Settles O13: the counter file's reads after an increment, and addition of 16-bit values. -/
theorem counterIncrementWraps : Obligations.CounterIncrementWraps := by
  refine fun n s => ⟨?_, fun m hm => ctr_get_inc_other s.ctr n m hm, rfl⟩
  rw [ctrInc_ctr, ctr_get_inc_self, BitVec.toNat_add]
  rfl

/-- Settles O33: both rows are RX_BYTE of their byte. -/
theorem huntRows : Obligations.HuntRows := by
  refine fun s hm => ⟨?_, fun b hb => ?_⟩
  · exact congrArg Host.Outcome.next (rxByte_hunt_fend hm)
  · exact congrArg Host.Outcome.next (rxByte_hunt_other hm hb)

/-- Settles O59: a 16-bit value is reported by its two bytes, and every counter reads 0 after a clear. -/
theorem counterCommands : Obligations.CounterCommands := by
  refine ⟨fun n s => ?_, fun s => rfl, fun n s t hclear => ?_⟩
  · rw [← word16Bytes_eq]
    rfl
  · have hread : t.ctr.get n = 0 := by
      cases hclear
      exact ctr_get_zero n
    show Host.Outcome.next (completeOk (word16Bytes (t.ctr.get n)) t) = _
    rw [hread]
    rfl

end Sys2Proof.StateRules

/-! ## Proofs: commands and RX bytes (20_memory.md) -/

/-! ### Writes that an RX byte neither reads nor undoes -/

namespace Sys2Proof.Machine

/-- A write of the fields on which no decision of RX_BYTE depends: the counters, the TX line, the results and the inputs to
come, each a function of its old value alone (R58). -/
def hostWrite (count : Counters → Counters) (send : List Byte → List Byte)
    (report : List ResultRecord → List ResultRecord) (load : List Input → List Input) (s : State) : State :=
  { s with ctr := count s.ctr, txLine := send s.txLine, results := report s.results, inputs := load s.inputs }

/-- A write of the counters that the increments of the unframer may come before or after. -/
def CommutesWithInc (count : Counters → Counters) : Prop := ∀ c n, count (c.inc n) = (count c).inc n

section
variable {count : Counters → Counters} (hcount : CommutesWithInc count) (send : List Byte → List Byte)
  (report : List ResultRecord → List ResultRecord) (load : List Input → List Input) (s : State)

theorem put_hostWrite (v : Byte) :
    put v (hostWrite count send report load s) = hostWrite count send report load (put v s) := by
  rcases put_cases v s with ⟨hroom, h⟩ | ⟨hfull, h⟩ <;> rw [h]
  · exact if_pos hroom
  · exact if_neg (Nat.not_lt.2 hfull)

theorem putAll_hostWrite (bytes : List Byte) :
    putAll bytes (hostWrite count send report load s) = hostWrite count send report load (putAll bytes s) := by
  induction bytes generalizing s with
  | nil => rfl
  | cons v rest ih => rw [putAll_cons, putAll_cons, put_hostWrite, ih]

include hcount

theorem ctrInc_hostWrite (n : CtrId) :
    ctrInc n (hostWrite count send report load s) = hostWrite count send report load (ctrInc n s) := by
  simp only [ctrInc, hostWrite, hcount s.ctr n]

theorem closeFrame_hostWrite :
    closeFrame (hostWrite count send report load s) = hostWrite count send report load (closeFrame s) := by
  rcases closeFrame_cases s with ⟨hovf, h⟩ | ⟨hovf, hbuf, h⟩ | ⟨t, payload, hovf, hbuf, ht, h⟩ |
    ⟨t, payload, hovf, hbuf, ht, h⟩ <;> rw [h]
  · rw [← ctrInc_hostWrite hcount]
    exact if_pos hovf
  · simp [closeFrame, hostWrite, hovf, hbuf]
  · rw [closeData, ← ctrInc_hostWrite hcount]
    simp [closeFrame, hostWrite, hovf, hbuf, ht, closeData, deliver]
  · rw [closeNondata, ← ctrInc_hostWrite hcount]
    simp only [closeFrame, hostWrite, hovf, hbuf, if_neg ht, closeNondata, Bool.false_eq_true, if_false]

/-- RX_BYTE gives the same state before such a write as after it (R58). -/
theorem rxByte_hostWrite (b : Byte) :
    rxByte b (hostWrite count send report load s) = hostWrite count send report load (rxByte b s) := by
  rcases rxByte_cases b s with ⟨hm, hb, h⟩ | ⟨hm, hb, h⟩ | ⟨hm, hb, h⟩ | ⟨hm, hb, h⟩ <;> rw [h]
  · subst hb
    exact rxByte_hunt_fend hm
  · exact rxByte_hunt_other hm hb
  · show _ = openFrame (hostWrite count send report load (closeFrame s))
    rw [← closeFrame_hostWrite hcount]
    simp [rxByte, hostWrite, hm, hb]
  · rw [← putAll_hostWrite]
    simp [rxByte, hostWrite, hm, hb]

end

/-- The steps still to come are nothing to an RX byte. -/
theorem rxByte_with_inputs (b : Byte) (s : State) (inputs : List Input) :
    rxByte b { s with inputs := inputs } = { rxByte b s with inputs := inputs } :=
  rxByte_hostWrite (count := id) (fun _ _ => rfl) id id (fun _ => inputs) s b

end Sys2Proof.Machine

/-! ### What a command reads that an RX byte leaves alone -/

namespace Sys2Proof.Machine

/-- The counters that the unframer counts in (R132). -/
def UnframerCounter (n : CtrId) : Prop := n = .rxData ∨ n = .rxNondata ∨ n = .rxOverrun

/-- RX_BYTE counts at most one event, in a counter of the unframer (R132, R235). -/
theorem rxByte_ctr_cases (b : Byte) (s : State) :
    (rxByte b s).ctr = s.ctr ∨ ∃ n, UnframerCounter n ∧ (rxByte b s).ctr = s.ctr.inc n := by
  rcases rxByte_outcome b s with ⟨-, h⟩ | ⟨-, -, h⟩ <;> rw [h]
  · exact .inl rfl
  · rcases closeFrame_outcome s with ⟨-, hc⟩ | ⟨_, -, hc⟩ | ⟨-, hc | hc⟩
    · exact .inl hc
    · exact .inr ⟨_, .inl rfl, hc⟩
    · exact .inr ⟨_, .inr (.inl rfl), hc⟩
    · exact .inr ⟨_, .inr (.inr rfl), hc⟩

/-- What a command may read of `t` without seeing the unframer at work is as in `s`: the parameters and the counters
PARSE_NULL and FCS_BAD. -/
structure SameForHost (s t : State) : Prop where
  cfg : t.cfg = s.cfg
  ctr : ∀ n, ¬ UnframerCounter n → t.ctr.get n = s.ctr.get n

theorem SameForHost.refl (s : State) : SameForHost s s := ⟨rfl, fun _ _ => rfl⟩

theorem SameForHost.with_inputs {s t : State} (h : SameForHost s t) (inputs : List Input) :
    SameForHost s { t with inputs := inputs } :=
  ⟨h.cfg, h.ctr⟩

theorem sameForHost_rxByte (b : Byte) (s : State) : SameForHost s (rxByte b s) where
  cfg := (rxByte_cfg_inputs b s).1
  ctr n hn := by
    rcases rxByte_ctr_cases b s with h | ⟨m, hm, h⟩ <;> rw [h]
    exact ctr_get_inc_other s.ctr m n fun hnm => hn (hnm ▸ hm)

/-- `perform` makes one and the same host write in every state that a command cannot tell from `s`. -/
def IsHostWrite (s : State) (perform : State → Host.Outcome State Fault Refusal) : Prop :=
  ∃ count send report, CommutesWithInc count ∧
    ∀ t, SameForHost s t → perform t = .next (hostWrite count send report id t)

section
variable {s : State} {perform : State → Host.Outcome State Fault Refusal}

theorem IsHostWrite.of_complete (r : ResultRecord) (h : ∀ t, SameForHost s t → perform t = .next (complete r t)) :
    IsHostWrite s perform :=
  ⟨id, id, (· ++ [r]), fun _ _ => rfl, h⟩

theorem IsHostWrite.of_emit (bytes : List Byte)
    (h : ∀ t, SameForHost s t → perform t = .next (completeOk [] (emit bytes t))) : IsHostWrite s perform :=
  ⟨id, (· ++ bytes), (· ++ [(⟨.ok, []⟩ : ResultRecord)]), fun _ _ => rfl, h⟩

theorem IsHostWrite.of_ctrInc (n : CtrId) (r : ResultRecord)
    (h : ∀ t, SameForHost s t → perform t = .next (complete r (ctrInc n t))) : IsHostWrite s perform :=
  ⟨(·.inc n), id, (· ++ [r]), fun c m => ctr_inc_comm c m n, h⟩

end

/-! ### The commands that make a host write -/

/-- PARSE reads FCS_MODE alone (R190). -/
theorem isHostWrite_parse (frame : List Byte) (s : State) : IsHostWrite s (exec (.parse frame)) := by
  cases hp : parseFrame s.cfg.fcsMode frame with
  | null => exact .of_ctrInc .parseNull ⟨.parseNull, []⟩ fun t ht => by simp only [exec, execParse, ht.cfg, hp]
  | fcsBad => exact .of_ctrInc .fcsBad ⟨.fcsBad, []⟩ fun t ht => by simp only [exec, execParse, ht.cfg, hp]
  | frame p => exact .of_complete ⟨.ok, p.bytes⟩ fun t ht => by simp only [exec, execParse, ht.cfg, hp, completeOk]

theorem isHostWrite_fcsCheck (data : List Byte) (s : State) : IsHostWrite s (exec (.fcsCheck data)) := by
  by_cases hshort : data.length < 2
  · exact .of_complete ⟨.ok, [0, 0, 0]⟩ fun _ _ => if_pos hshort
  · exact .of_complete ⟨.ok, _⟩ fun _ _ => if_neg hshort

/-- Every command but LINE_RESET, CTR_CLEAR and CTR_READ of a counter of the unframer makes a host write (R32, R58). -/
theorem exec_isHostWrite {i : Instr} (hi : i.format = .cmd) (hreset : i ≠ .lineReset) (hclear : i ≠ .ctrClear)
    (hread : ∀ n, UnframerCounter n → i ≠ .ctrRead n) (s : State) : IsHostWrite s (exec i) := by
  cases i with
  | kissSend type payload => exact .of_emit _ fun _ _ => rfl
  | kissSetTxdelay ms =>
    exact .of_emit (kissFrame (typeByte s.cfg.txdPort 1) [txdelayValue ms]) fun t ht => by rw [← ht.cfg]; rfl
  | kissUnescape data =>
    exact .of_complete ⟨.ok, countedBytes (unescape s.cfg.badEsc data)⟩ fun t ht => by rw [← ht.cfg]; rfl
  | lineReset => exact absurd rfl hreset
  | parse frame => exact isHostWrite_parse frame s
  | fcsCheck data => exact isHostWrite_fcsCheck data s
  | ctrRead n =>
    have hn : ¬ UnframerCounter n := fun h => hread n h rfl
    exact .of_complete ⟨.ok, word16Bytes (s.ctr.get n)⟩ fun t ht => by rw [← ht.ctr n hn]; rfl
  | ctrClear => exact absurd rfl hclear
  | kissData | rxHuntFend | rxHuntOther | rxFrameFend | rxFrameFesc | rxFrameOther | rxEscTfend | rxEscTfesc
  | rxEscOther | kissTypeData | kissTypeTxdelay | kissTypeNondata | pidNoL3 => nomatch hi
  | _ => exact .of_complete _ fun _ _ => rfl

/-- A record that is refused raises its fault (R231). -/
theorem step_of_refused {s : State} {record : List Byte} {rest : List Input} {f : FaultCode}
    (hin : s.inputs = .command record :: rest) (hd : decodeRecord record = .error f) :
    step s = .next (raiseFault f { s with inputs := rest }) := by
  simp only [step, hin, decodeInput, hd]

/-- A step that performs such a command, or refuses its record, makes a host write. -/
theorem step_command_isHostWrite {record : List Byte} (hreset : decodeRecord record ≠ .ok .lineReset)
    (hclear : decodeRecord record ≠ .ok .ctrClear)
    (hread : ∀ n, UnframerCounter n → decodeRecord record ≠ .ok (.ctrRead n)) (s : State) :
    ∃ perform, IsHostWrite s perform ∧
      ∀ t rest, t.inputs = .command record :: rest → step t = perform { t with inputs := rest } := by
  cases hd : decodeRecord record with
  | error f => exact ⟨_, .of_complete _ fun _ _ => rfl, fun t rest hin => step_of_refused hin hd⟩
  | ok i =>
    have hwrite : IsHostWrite s (exec i) :=
      exec_isHostWrite (decodeRecord_format hd) (fun h => hreset (h ▸ hd)) (fun h => hclear (h ▸ hd))
        (fun n hn h => hread n hn (h ▸ hd)) s
    exact ⟨_, hwrite, fun t rest hin => step_of_decode t _ rest i hin hd⟩

/-- Two steps of a run, one after the other. -/
theorem run_two {s t u : State} (hfirst : step s = .next t) (hsecond : step t = .next u) : core.run 2 s = .next u := by
  have hfirst' : core.step s = .next t := hfirst
  have hsecond' : core.step t = .next u := hsecond
  simp only [Host.Core.run, hfirst', hsecond']

end Sys2Proof.Machine

/-! ### The statement of 20_memory.md -/

namespace Sys2Proof.MemoryRules

open Sys2Proof.Machine

/-- Settles O12: such a record makes one host write, before the byte or after it, and RX_BYTE commutes with host writes. -/
theorem commandsCommuteWithRxBytes : Obligations.CommandsCommuteWithRxBytes := by
  intro s record b hreset hclear hread
  obtain ⟨perform, ⟨count, send, report, hcount, hwrite⟩, hstep⟩ :=
    step_command_isHostWrite hreset hclear hread s
  refine ⟨rxByte b (hostWrite count send report id { s with inputs := [] }), ?_, ?_⟩
  · have hcommand : step { s with inputs := [.command record, .rxByte b] } =
        .next (hostWrite count send report id { s with inputs := [.rxByte b] }) :=
      (hstep _ _ rfl).trans (hwrite _ ((SameForHost.refl s).with_inputs _))
    exact run_two hcommand (step_rxByte _ b [] rfl)
  · have hbyte : step { s with inputs := [.rxByte b, .command record] } =
        .next { rxByte b s with inputs := [.command record] } :=
      (step_rxByte _ b _ rfl).trans (congrArg Host.Outcome.next (rxByte_with_inputs b s _))
    have hcommand : step { rxByte b s with inputs := [.command record] } =
        .next (hostWrite count send report id { rxByte b s with inputs := [] }) :=
      (hstep _ _ rfl).trans (hwrite _ ((sameForHost_rxByte b s).with_inputs _))
    rw [rxByte_hostWrite hcount, rxByte_with_inputs]
    exact run_two hbyte hcommand

end Sys2Proof.MemoryRules

/-! ## Proofs: encodings (30_encoding.md) -/

/-! ### A field reader on the field the encoder writes, and on a part of it (R81, R84) -/

namespace Sys2Proof

/-- Cut short anywhere, the field is refused with `BAD_OPERAND` (R84). -/
def RefusesPrefixes {α : Type} (read : List Byte → Except FaultCode α) (field : List Byte) : Prop :=
  ∀ n < field.length, read (field.take n) = .error .badOperand

/-- `read` reads exactly `field` as `a`: whatever bytes follow are left, and no part of the field is enough. -/
structure Reads {α : Type} (read : List Byte → Read α) (field : List Byte) (a : α) : Prop where
  append : ∀ rest, read (field ++ rest) = .ok (a, rest)
  short : RefusesPrefixes read field

/-- `decode` reads exactly `fields` as the operands of `i`, and then looks for the end of the record. -/
structure Decodes (decode : List Byte → Except FaultCode Instr) (fields : List Byte) (i : Instr) : Prop where
  append : ∀ extra, decode (fields ++ extra) = finish i extra
  short : RefusesPrefixes decode fields

variable {α β : Type}

theorem RefusesPrefixes.nil (read : List Byte → Except FaultCode α) : RefusesPrefixes read [] :=
  fun _ hn => absurd hn (Nat.not_lt_zero _)

/-- Two fields one after the other: a cut falls into the first, or into the second with the first whole. -/
theorem RefusesPrefixes.andThen {read : List Byte → Read α} {k : α → List Byte → Except FaultCode β}
    {first second : List Byte} {a : α} (hfirst : Reads read first a) (hsecond : RefusesPrefixes (k a) second) :
    RefusesPrefixes (fun rest => andThen (read rest) k) (first ++ second) := by
  intro n hn
  rw [List.length_append] at hn
  beta_reduce
  by_cases hcut : n < first.length
  · rw [List.take_append_of_le_length hcut.le, hfirst.short n hcut, andThen_error]
  · rw [List.take_append, List.take_of_length_le (not_lt.1 hcut), hfirst.append, andThen_ok]
    exact hsecond _ (by omega)

theorem Reads.andThen {read : List Byte → Read α} {k : α → List Byte → Read β} {first second : List Byte} {a : α}
    {b : β} (hfirst : Reads read first a) (hsecond : Reads (k a) second b) :
    Reads (fun rest => andThen (read rest) k) (first ++ second) b where
  append rest := by rw [List.append_assoc, hfirst.append, andThen_ok, hsecond.append]
  short := .andThen hfirst hsecond.short

theorem Decodes.andThen {read : List Byte → Read α} {k : α → List Byte → Except FaultCode Instr}
    {first fields : List Byte} {a : α} {i : Instr} (hfirst : Reads read first a) (hrest : Decodes (k a) fields i) :
    Decodes (fun rest => andThen (read rest) k) (first ++ fields) i where
  append extra := by rw [List.append_assoc, hfirst.append, andThen_ok, hrest.append]
  short := .andThen hfirst hrest.short

theorem Decodes.finish (i : Instr) : Decodes (finish i) [] i where
  append _ := rfl
  short := .nil _

/-- The last field of a record. -/
theorem Decodes.last {read : List Byte → Read α} {make : α → Instr} {field : List Byte} {a : α}
    (h : Reads read field a) :
    Decodes (fun rest => Sys2Proof.andThen (read rest) fun a rest => Sys2Proof.finish (make a) rest) field (make a) := by
  have := Decodes.andThen (k := fun a rest => Sys2Proof.finish (make a) rest) h (.finish (make a))
  rwa [List.append_nil] at this

/-! ### Each reader -/

theorem reads_u8 (b : Byte) : Reads readU8 [b] b where
  append _ := rfl
  short n hn := by
    obtain rfl : n = 0 := by simpa using hn
    rfl

theorem reads_bytes (data : List Byte) : Reads (readBytes data.length) data data where
  append := readBytes_append data
  short n hn := if_neg (by simpa using hn)

theorem reads_u16 (n : Nat) (h : n < 65536) : Reads readU16 (u16Bytes n) n where
  append rest := readU16_u16Bytes n rest h
  short
    | 0, _ => rfl
    | 1, _ => rfl

theorem reads_s32 (ms : Word32) : Reads readS32 (s32Bytes ms) ms where
  append := readS32_s32Bytes ms
  short
    | 0, _ => rfl
    | 1, _ => rfl
    | 2, _ => rfl
    | 3, _ => rfl

theorem reads_raw7 (u : AddrUnit) : Reads readRaw7 u.bytes u where
  append := readRaw7_bytes u
  short
    | 0, _ => rfl
    | 1, _ => rfl
    | 2, _ => rfl
    | 3, _ => rfl
    | 4, _ => rfl
    | 5, _ => rfl
    | 6, _ => rfl

/-- A one-byte field is cut short only to nothing. -/
theorem Reads.of_byte {read : List Byte → Read α} {b : Byte} {a : α} (h : ∀ rest, read (b :: rest) = .ok (a, rest))
    (hnil : read [] = .error .badOperand) : Reads read [b] a where
  append := h
  short n hn := by
    obtain rfl : n = 0 := by simpa using hn
    exact hnil

theorem reads_bit (last : Bool) : Reads readBit (bitField last) last :=
  .of_byte (readBit_field last) rfl

theorem reads_seq (n : Bits3) : Reads readSeq [n.setWidth 8] n := .of_byte (readSeq_cons n) rfl

theorem reads_ctr (n : CtrId) : Reads readCtr [n.number] n := .of_byte (readCtr_cons n) rfl

theorem bytes16Wf_iff (data : List Byte) : bytes16Wf data = true ↔ data.length < 65536 := decide_eq_true_iff

theorem reads_bytes16 (data : List Byte) (h : bytes16Wf data = true) : Reads readBytes16 (bytes16Field data) data :=
  .andThen (reads_u16 _ ((bytes16Wf_iff data).1 h)) (reads_bytes data)

theorem Addr.callsign_length_of_wf {a : Addr} (h : a.wf = true) : a.callsign.length < 256 := by
  simp only [Addr.wf, Bool.and_eq_true, decide_eq_true_eq] at h
  exact h.1

/-- The address field is refused when a byte of it is missing; its values are checked when all are present (R81). -/
theorem reads_addr (a : Addr) (h : a.wf = true) : Reads readAddr (addrField a) a where
  append rest := readAddr_field a rest h
  short := by
    have hlen : (byteOf a.callsign.length).toNat = a.callsign.length :=
      byteOf_toNat_of_lt _ (Addr.callsign_length_of_wf h)
    refine .andThen (reads_u8 _) (.andThen (hlen ▸ reads_bytes a.callsign) fun n hn => ?_)
    obtain rfl : n = 0 := by simpa using hn
    rfl

theorem reads_addrs (path : List Addr) (h : path.all Addr.wf = true) :
    Reads (readAddrs path.length) (path.flatMap addrField) path where
  append rest := readAddrs_fields path rest h
  short := by
    induction path with
    | nil => exact .nil _
    | cons a more ih =>
      simp only [List.all_cons, Bool.and_eq_true] at h
      have hmore : Reads (readAddrs more.length) (more.flatMap addrField) more :=
        ⟨fun rest => readAddrs_fields more rest h.2, ih h.2⟩
      exact .andThen (reads_addr a h.1) fun n hn =>
        congrArg (Sys2Proof.andThen · fun more rest => .ok (a :: more, rest)) (hmore.short n hn)

theorem reads_path (path : List Addr) (h : pathWf path = true) : Reads readPath (pathField path) path where
  append rest := readPath_field path rest h
  short := by
    simp only [pathWf, Bool.and_eq_true, decide_eq_true_eq] at h
    obtain ⟨hmax, hall⟩ := h
    have hlen : (byteOf path.length).toNat = path.length :=
      byteOf_toNat_of_lt _ (by rw [maxPathTx] at hmax; omega)
    refine .andThen (reads_u8 _) fun n hn => ?_
    rw [hlen, if_neg (not_lt.2 hmax)]
    exact (reads_addrs path hall).short n hn

/-- The fields the builders begin with, and what follows them. -/
theorem Decodes.route {src dest : Addr} {path : List Addr}
    {k : Addr → Addr → List Addr → List Byte → Except FaultCode Instr} {fields : List Byte} {i : Instr} (hroute : routeWf src dest path = true) (hrest : Decodes (k src dest path) fields i) :
    Decodes (fun rest => readRoute rest k) (routeFields src dest path ++ fields) i := by
  simp only [routeWf, Bool.and_eq_true] at hroute
  obtain ⟨⟨hsrc, hdest⟩, hpath⟩ := hroute
  have := Decodes.andThen (k := fun src rest => Sys2Proof.andThen (readAddr rest) fun dest rest =>
    Sys2Proof.andThen (readPath rest) fun path rest => k src dest path rest) (reads_addr src hsrc)
    (.andThen (reads_addr dest hdest) (.andThen (reads_path path hpath) hrest))
  rwa [← List.append_assoc, ← List.append_assoc] at this

/-- A record whose last field is one `bytes16`. -/
theorem Decodes.data (make : List Byte → Instr) {data : List Byte} (h : bytes16Wf data = true) :
    Decodes (readData make) (bytes16Field data) (make data) :=
  .last (reads_bytes16 data h)

/-! ### The record of a command (R80, R82) -/

/-- The record of `i` is an OP and the fields that its operands decode from. -/
def RecordDecodes (i : Instr) : Prop :=
  ∃ o fields, encode i = Op.code o :: fields ∧ Decodes (decodeOperands o) fields i

/-- A well-formed command is read exactly from its record. -/
theorem recordDecodes_of_wf {i : Instr} (hwf : i.wf = true) (hformat : i.format = .cmd)
    (hassigned : ∀ op rest, i ≠ .reservedOp op rest) : RecordDecodes i := by
  cases i with
  | kissSend type payload => exact ⟨.kissSend, _, rfl, .andThen (reads_u8 type) (.data _ hwf)⟩
  | kissSetTxdelay ms => exact ⟨.kissSetTxdelay, _, rfl, .last (reads_s32 ms)⟩
  | kissEscape data => exact ⟨.kissEscape, _, rfl, .data _ hwf⟩
  | kissUnescape data => exact ⟨.kissUnescape, _, rfl, .data _ hwf⟩
  | lineReset => exact ⟨.lineReset, _, rfl, .finish _⟩
  | encAddr a last => exact ⟨.encAddr, _, rfl, .andThen (reads_addr a hwf) (.last (reads_bit last))⟩
  | buildHeader src dest path =>
    exact ⟨.buildHeader, _, congrArg _ (List.append_nil _).symm, .route hwf (.finish _)⟩
  | buildUi src dest path info =>
    obtain ⟨hroute, hinfo⟩ := Bool.and_eq_true_iff.1 hwf
    exact ⟨.buildUi, _, rfl, .route hroute (.data _ hinfo)⟩
  | buildU src dest path ctrl => exact ⟨.buildU, _, rfl, .route hwf (.last (reads_u8 ctrl))⟩
  | buildI src dest path ns nr info =>
    obtain ⟨hroute, hinfo⟩ := Bool.and_eq_true_iff.1 hwf
    exact ⟨.buildI, _, rfl, .route hroute (.andThen (reads_seq ns) (.andThen (reads_seq nr) (.data _ hinfo)))⟩
  | decAddr unit => exact ⟨.decAddr, _, rfl, .last (reads_raw7 unit)⟩
  | parse frame => exact ⟨.parse, _, rfl, .data _ hwf⟩
  | classify ctrl => exact ⟨.classify, _, rfl, .last (reads_u8 ctrl)⟩
  | fcsCalc data => exact ⟨.fcsCalc, _, rfl, .data _ hwf⟩
  | fcsCheck data => exact ⟨.fcsCheck, _, rfl, .data _ hwf⟩
  | ctrRead n => exact ⟨.ctrRead, _, rfl, .last (reads_ctr n)⟩
  | ctrClear => exact ⟨.ctrClear, _, rfl, .finish _⟩
  | reservedOp op rest => exact absurd rfl (hassigned op rest)
  | _ => nomatch hformat

/-- What follows the record's last field is judged by `finish` (R84). -/
theorem RecordDecodes.append {i : Instr} (h : RecordDecodes i) (extra : List Byte) :
    decodeRecord (encode i ++ extra) = finish i extra := by
  obtain ⟨o, fields, hrecord, hfields⟩ := h
  rw [hrecord, List.cons_append, decodeRecord_code, hfields.append]

/-- A part of the record is refused (R84), and the empty record too (R80). -/
theorem RecordDecodes.take {i : Instr} (h : RecordDecodes i) (n : Nat) (hn : n < (encode i).length) :
    decodeRecord ((encode i).take n) = .error .badOperand := by
  obtain ⟨o, fields, hrecord, hfields⟩ := h
  rw [hrecord] at hn ⊢
  cases n with
  | zero => rfl
  | succ n =>
    rw [List.take_succ_cons, decodeRecord_code]
    exact hfields.short n (by simpa using hn)

/-! ### Pseudo-operations (R88) -/

/-- A pseudo-operation shares its record with its expansion. -/
theorem encode_expand (i : Instr) : encode i.expand = encode i := by cases i <;> rfl

theorem wf_expand (i : Instr) : i.expand.wf = i.wf := by cases i <;> rfl

theorem format_expand (i : Instr) : i.expand.format = if i.format = .pseudo then .cmd else i.format := by
  cases i <;> rfl

theorem expand_ne_reservedOp {i : Instr} (h : ∀ op rest, i ≠ .reservedOp op rest) (op : Byte) (rest : List Byte) :
    i.expand ≠ .reservedOp op rest := by
  cases i with
  | reservedOp op' rest' => exact absurd rfl (h op' rest')
  | _ => nofun

/-- A well-formed command or pseudo-operation is read from its record as the operation it stands for. -/
theorem recordDecodes_expand {i : Instr} (hwf : i.wf = true) (hformat : i.format = .cmd ∨ i.format = .pseudo)
    (hassigned : ∀ op rest, i ≠ .reservedOp op rest) : RecordDecodes i.expand := by
  have hcmd : i.expand.format = .cmd := by
    rcases hformat with h | h <;> simp [format_expand, h]
  exact recordDecodes_of_wf ((wf_expand i).trans hwf) hcmd (expand_ne_reservedOp hassigned)

/-- A record with a reserved OP is that instruction, whatever follows the OP (R83). -/
theorem decodeRecord_reserved (op : Byte) (rest : List Byte) (h : assignedOps.contains op = false) :
    decodeRecord (op :: rest) = .ok (.reservedOp op rest) := by
  simp only [decodeRecord, (opOfByte_eq_none op).2 h]

end Sys2Proof

namespace Sys2Proof.Encoding

open Sys2Proof.Machine Sys2Proof.Safety

/-- Settles O15: the record is read exactly and nothing is left; a reserved OP is read as it stands. -/
theorem decodeInvertsEncode : Obligations.DecodeInvertsEncode := by
  intro i hwf hformat
  by_cases hassigned : ∀ op rest, i ≠ .reservedOp op rest
  · have := (recordDecodes_expand hwf hformat hassigned).append []
    rwa [encode_expand, List.append_nil, finish_nil] at this
  · push Not at hassigned
    obtain ⟨op, rest, rfl⟩ := hassigned
    exact decodeRecord_reserved op rest (by simpa only [Instr.wf, Bool.not_eq_true'] using hwf)

/-- Settles O20: the record is read exactly, so what follows is left at its end. -/
theorem trailingBytesAreRefused : Obligations.TrailingBytesAreRefused := by
  intro i extra hwf hformat hassigned hextra
  obtain ⟨b, more, rfl⟩ := List.exists_cons_of_ne_nil hextra
  rw [← encode_expand, (recordDecodes_expand hwf hformat hassigned).append]
  rfl

/-- Settles O21: no part of the record is enough. -/
theorem shortRecordsAreRefused : Obligations.ShortRecordsAreRefused := by
  intro i n hwf hformat hassigned hn
  rw [← encode_expand] at hn ⊢
  exact (recordDecodes_expand hwf hformat hassigned).take n hn

end Sys2Proof.Encoding

/-! ### What a record that decodes was written from (R81, R84) -/

namespace Sys2Proof

/-- A reader that succeeds has read the field of an admissible value. -/
def ReadsOnly {α : Type} (read : List Byte → Read α) (field : α → List Byte) (P : α → Prop) : Prop :=
  ∀ r a rest, read r = .ok (a, rest) → r = field a ++ rest ∧ P a

/-- A well-formed instruction decoded behind the bytes `before` has these and what was read for its record. -/
def WritesBack (before : List Byte) (decode : List Byte → Except FaultCode Instr) : Prop :=
  ∀ r i, decode r = .ok i → encode i = before ++ r ∧ i.wf = true

theorem WritesBack.andThen {α : Type} {before : List Byte} {read : List Byte → Read α} {field : α → List Byte}
    {P : α → Prop} {k : α → List Byte → Except FaultCode Instr} (hread : ReadsOnly read field P)
    (hk : ∀ a, P a → WritesBack (before ++ field a) (k a)) : WritesBack before fun rest => andThen (read rest) k := by
  intro r i hi
  obtain ⟨a, rest, hfield, hrest⟩ := (andThen_eq_ok _ _ _).1 hi
  obtain ⟨rfl, ha⟩ := hread r a rest hfield
  rw [← List.append_assoc]
  exact hk a ha rest i hrest

theorem WritesBack.finish {before : List Byte} {i : Instr} (hencode : encode i = before) (hwf : i.wf = true) :
    WritesBack before (finish i) := by
  intro r j hj
  obtain ⟨rfl, rfl⟩ := (finish_eq_ok i j r).1 hj
  exact ⟨by rw [hencode, List.append_nil], hwf⟩

/-! ### Each reader -/

theorem readsOnly_u8 : ReadsOnly readU8 (fun b => [b]) fun _ => True :=
  fun r b rest h => ⟨(readU8_eq_ok r b rest).1 h, trivial⟩

theorem readsOnly_bytes16 : ReadsOnly readBytes16 bytes16Field fun data => bytes16Wf data = true := fun r data rest h =>
  let ⟨hr, hlen⟩ := (readBytes16_eq_ok r data rest).1 h
  ⟨hr, (bytes16Wf_iff data).2 hlen⟩

theorem readsOnly_addr : ReadsOnly readAddr addrField fun a => a.wf = true :=
  fun r a rest => (readAddr_eq_ok r a rest).1

theorem readsOnly_path : ReadsOnly readPath pathField fun path => pathWf path = true :=
  fun r path rest => (readPath_eq_ok r path rest).1

/-- The four bytes of a 32-bit value put together. -/
theorem s32Bytes_append (b3 b2 b1 b0 : Byte) : s32Bytes (b3 ++ b2 ++ b1 ++ b0) = [b3, b2, b1, b0] := by
  simp only [s32Bytes, List.cons.injEq, and_true]
  refine ⟨?_, ?_, ?_, ?_⟩
  all_goals
    apply BitVec.eq_of_getLsbD_eq
    intro i hi
    rw [BitVec.getLsbD_extractLsb', BitVec.getLsbD_append (x := b3 ++ b2 ++ b1), BitVec.getLsbD_append (x := b3 ++ b2),
      BitVec.getLsbD_append]
    grind

theorem readsOnly_s32 : ReadsOnly readS32 s32Bytes fun _ => True := by
  intro r ms rest h
  match r with
  | [] | [_] | [_, _] | [_, _, _] => nomatch h
  | b3 :: b2 :: b1 :: b0 :: r =>
    cases h
    rw [s32Bytes_append]
    exact ⟨rfl, trivial⟩

theorem readsOnly_raw7 : ReadsOnly readRaw7 AddrUnit.bytes fun _ => True := by
  intro r u rest h
  match r with
  | [] | [_] | [_, _] | [_, _, _] | [_, _, _, _] | [_, _, _, _, _] | [_, _, _, _, _, _] => nomatch h
  | c0 :: c1 :: c2 :: c3 :: c4 :: c5 :: b6 :: r =>
    cases h
    exact ⟨rfl, trivial⟩

/-- A reader of one byte that succeeds. -/
theorem ReadsOnly.of_byte {α : Type} {k : Byte → List Byte → Read α} {field : α → Byte}
    (h : ∀ b rest a rest', k b rest = .ok (a, rest') → b = field a ∧ rest = rest') :
    ReadsOnly (fun rest => andThen (readU8 rest) k) (fun a => [field a]) fun _ => True := by
  intro r a rest hr
  obtain ⟨b, rest', hb, hk⟩ := (andThen_eq_ok _ _ _).1 hr
  obtain ⟨rfl, rfl⟩ := h b rest' a rest hk
  exact ⟨(readU8_eq_ok _ _ _).1 hb, trivial⟩

theorem readsOnly_bit : ReadsOnly readBit bitField fun _ => True := by
  refine .of_byte (field := fun last : Bool => if last then 1 else 0) fun b rest last rest' h => ?_
  split at h
  case isTrue h0 => cases h; exact ⟨h0, rfl⟩
  case isFalse =>
    split at h
    case isTrue h1 => cases h; exact ⟨h1, rfl⟩
    case isFalse => nomatch h

theorem readsOnly_seq : ReadsOnly readSeq (fun n => [n.setWidth 8]) fun _ => True := by
  refine .of_byte fun b rest n rest' h => ?_
  split at h
  case isTrue => nomatch h
  case isFalse hle =>
    cases h
    refine ⟨BitVec.eq_of_toNat_eq ?_, rfl⟩
    simp
    omega

theorem readsOnly_ctr : ReadsOnly readCtr (fun n => [n.number]) fun _ => True := by
  refine .of_byte fun b rest n rest' h => ?_
  split at h
  case h_1 c hc =>
    cases h
    have hfound := List.find?_some hc
    exact ⟨(by simpa using hfound : n.number = b).symm, rfl⟩
  case h_2 => nomatch h

/-! ### Each operation -/

theorem WritesBack.data {before : List Byte} {make : List Byte → Instr}
    (hencode : ∀ data, encode (make data) = before ++ bytes16Field data)
    (hwf : ∀ data, bytes16Wf data = true → (make data).wf = true) : WritesBack before (readData make) :=
  .andThen readsOnly_bytes16 fun data hdata => .finish (hencode data) (hwf data hdata)

theorem WritesBack.route {before : List Byte} {k : Addr → Addr → List Addr → List Byte → Except FaultCode Instr}
    (hk : ∀ src dest path, routeWf src dest path = true →
      WritesBack (before ++ routeFields src dest path) (k src dest path)) :
    WritesBack before fun rest => readRoute rest k := by
  refine .andThen readsOnly_addr fun src hsrc => .andThen readsOnly_addr fun dest hdest =>
    .andThen readsOnly_path fun path hpath => ?_
  rw [List.append_assoc, List.append_assoc, ← List.append_assoc (addrField src)]
  exact hk src dest path (by rw [routeWf, hsrc, hdest, hpath]; rfl)

/-- The instruction that an operation's operands decode to is well formed, and its record is the OP and these operands. -/
theorem decodeOperands_writesBack (o : Op) : WritesBack [o.code] (decodeOperands o) := by
  cases o with
  | kissSend => exact .andThen readsOnly_u8 fun _ _ => .data (fun _ => rfl) fun _ h => h
  | kissSetTxdelay => exact .andThen readsOnly_s32 fun _ _ => .finish rfl rfl
  | kissEscape => exact .data (fun _ => rfl) fun _ h => h
  | kissUnescape => exact .data (fun _ => rfl) fun _ h => h
  | lineReset => exact .finish rfl rfl
  | encAddr => exact .andThen readsOnly_addr fun _ ha => .andThen readsOnly_bit fun _ _ => .finish rfl ha
  | buildHeader => exact .route fun _ _ _ h => .finish rfl h
  | buildUi =>
    exact .route fun _ _ _ h => .data (fun _ => rfl) fun _ hinfo => by rw [Instr.wf, h, hinfo]; rfl
  | buildU => exact .route fun _ _ _ h => .andThen readsOnly_u8 fun _ _ => .finish rfl h
  | buildI =>
    exact .route fun _ _ _ h => .andThen readsOnly_seq fun _ _ => .andThen readsOnly_seq fun _ _ =>
      .data (fun _ => by simp [encode, Op.code]) fun _ hinfo => by rw [Instr.wf, h, hinfo]; rfl
  | decAddr => exact .andThen readsOnly_raw7 fun _ _ => .finish rfl rfl
  | parse => exact .data (fun _ => rfl) fun _ h => h
  | classify => exact .andThen readsOnly_u8 fun _ _ => .finish rfl rfl
  | fcsCalc => exact .data (fun _ => rfl) fun _ h => h
  | fcsCheck => exact .data (fun _ => rfl) fun _ h => h
  | ctrRead => exact .andThen readsOnly_ctr fun _ _ => .finish rfl rfl
  | ctrClear => exact .finish rfl rfl

/-! ### Values that a field refuses (R81, R83) -/

/-- An `addr` field with all its bytes present is decided by its value checks. -/
theorem readAddr_present (callsign : List Byte) (ssid : Byte) (rest : List Byte) (h : callsign.length < 256) :
    readAddr (BitVec.ofNat 8 callsign.length :: (callsign ++ ssid :: rest)) =
      match checkAddr callsign ssid with
      | .ok a => .ok (a, rest)
      | .error f => .error f := by
  have hlen : (BitVec.ofNat 8 callsign.length).toNat = callsign.length := byteOf_toNat_of_lt _ h
  rw [readAddr, readU8_cons, andThen_ok, readBytes_append_of_eq _ _ _ hlen]
  rfl

/-- A `bit` field is its byte, if that is 0 or 1. -/
theorem readBit_cons (b : Byte) (rest : List Byte) :
    readBit (b :: rest) = if 1 < b.toNat then .error .badOperand else .ok (b == 1, rest) := by
  simp only [readBit, readU8_cons, andThen_ok]
  by_cases h0 : b = 0
  · subst h0; rfl
  by_cases h1 : b = 1
  · subst h1; rfl
  · have h0' : b.toNat ≠ 0 := fun h => h0 (BitVec.eq_of_toNat_eq h)
    have h1' : b.toNat ≠ 1 := fun h => h1 (BitVec.eq_of_toNat_eq h)
    rw [if_neg h0, if_neg h1, if_pos (by omega)]

/-- A path count above `MAX_PATH_TX` is refused on being read. -/
theorem readPath_cons_of_gt (k : Byte) (rest : List Byte) (h : 8 < k.toNat) : readPath (k :: rest) = .error .pathTooLong :=
  if_pos h

theorem readRoute_long_path {β : Type} (src dest : Addr) (k : Byte) (rest : List Byte)
    (next : Addr → Addr → List Addr → List Byte → Except FaultCode β) (hsrc : src.wf = true) (hdest : dest.wf = true)
    (hk : 8 < k.toNat) :
    readRoute (addrField src ++ addrField dest ++ k :: rest) next = .error .pathTooLong := by
  rw [readRoute, List.append_assoc, readAddr_field src _ hsrc, andThen_ok, readAddr_field dest _ hdest, andThen_ok,
    readPath_cons_of_gt k rest hk, andThen_error]

/-- The values of R83 are those that R82 does not assign. -/
theorem reserved_of_ranges (op : Byte)
    (h : op.toNat = 0 ∨ (6 ≤ op.toNat ∧ op.toNat ≤ 0x0F) ∨ (0x15 ≤ op.toNat ∧ op.toNat ≤ 0x1F) ∨
      (0x25 ≤ op.toNat ∧ op.toNat ≤ 0x2F) ∨ 0x32 ≤ op.toNat) : assignedOps.contains op = false := by
  revert op
  decide

end Sys2Proof

namespace Sys2Proof.Encoding

open Sys2Proof.Machine Sys2Proof.Safety

/-- Settles O16: the operands that were read are written back behind their OP; a reserved OP's record is itself. -/
theorem encodeInvertsDecode : Obligations.EncodeInvertsDecode := by
  intro record i hi
  suffices encode i = record ∧ i.wf = true from
    let ⟨hencode, hwf⟩ := this
    ⟨hencode, hwf, decodeRecord_format hi⟩
  cases record with
  | nil => nomatch hi
  | cons op rest =>
    rw [decodeRecord] at hi
    split at hi
    case h_1 o ho =>
      obtain rfl := (opOfByte_eq_some op o).1 ho
      exact decodeOperands_writesBack o rest i hi
    case h_2 hnone =>
      cases hi
      exact ⟨rfl, by rw [Instr.wf, (opOfByte_eq_none op).1 hnone]; rfl⟩

/-- Settles O22: the address field's value checks come first, then the `bit`. -/
theorem addressFieldChecks : Obligations.AddressFieldChecks := by
  intro callsign ssid last hlen
  rw [← show Op.encAddr.code = 0x10 from rfl, decodeRecord_code, decodeOperands, readAddr_present _ _ _ hlen, checkAddr]
  simp only [List.any_eq_true, decide_eq_true_eq]
  by_cases hchar : ∃ b ∈ callsign.take 6, 128 ≤ b.toNat
  · rw [if_pos hchar, if_pos hchar, andThen_error]
  rw [if_neg hchar, if_neg hchar]
  by_cases hssid : 15 < ssid.toNat
  · rw [if_pos hssid, if_pos hssid, andThen_error]
  rw [if_neg hssid, if_neg hssid, andThen_ok, readBit_cons]
  by_cases hlast : 1 < last.toNat
  · rw [if_pos hlast, if_pos hlast, andThen_error]
  · rw [if_neg hlast, if_neg hlast, andThen_ok, finish_nil]

/-- Settles O23: the four builders read the same route. -/
theorem longPathIsRefused : Obligations.LongPathIsRefused := by
  intro op src dest k rest hop hsrc hdest hk
  have hlong : ∀ o ∈ [Op.buildHeader, .buildUi, .buildU, .buildI],
      decodeRecord (o.code :: (addrField src ++ addrField dest ++ k :: rest)) = .error .pathTooLong := by
    intro o ho
    rw [decodeRecord_code]
    simp only [List.mem_cons, List.not_mem_nil, or_false] at ho
    rcases ho with rfl | rfl | rfl | rfl <;> exact readRoute_long_path src dest k rest _ hsrc hdest hk
  simp only [List.mem_cons, List.not_mem_nil, or_false] at hop
  rcases hop with rfl | rfl | rfl | rfl
  · exact hlong .buildHeader (by decide)
  · exact hlong .buildUi (by decide)
  · exact hlong .buildU (by decide)
  · exact hlong .buildI (by decide)

/-- Settles O14: each record is short and has no operand left open. -/
theorem specRecordsDecode : Obligations.SpecRecordsDecode := by
  refine ⟨?_, ?_, ?_, ?_, ?_, ?_, ?_, ?_, ?_, ?_, ?_, ?_, ?_, ?_, ?_⟩ <;> decide

/-- Settles O19: a reserved OP is an instruction of its own, and its effect is the fault record. -/
theorem reservedOpsAreIllegal : Obligations.ReservedOpsAreIllegal := by
  refine ⟨fun op hop more s rest hin => ?_, by set_option maxRecDepth 4000 in decide⟩
  exact step_of_decode s _ rest _ hin (decodeRecord_reserved op more (reserved_of_ranges op hop))

/-- Settles O25: the code of a fault is the byte of one of the seven. -/
theorem resultCodeBytes : Obligations.ResultCodeBytes := by
  refine ⟨rfl, rfl, rfl, rfl, rfl, rfl, rfl, rfl, rfl, rfl, fun c => ?_⟩
  cases c with
  | ok => exact .inl (by decide)
  | fault f => exact .inl (by cases f <;> decide)
  | parseNull => exact .inr (.inl rfl)
  | fcsBad => exact .inr (.inr rfl)

end Sys2Proof.Encoding

/-! ### The wire rows and their bytes (R71, R72, R77, R130) -/

namespace Sys2Proof

/-- Control bytes: the table's rows share all 256 of them out (R77, R195). -/
theorem decodeCtl_row (c : Byte) :
    encode (decodeCtl c) = [c] ∧ (decodeCtl c).wf = true ∧ (decodeCtl c).format = .ax25Ctl := by
  revert c
  decide

theorem decodeCtl_i (ns nr : Bits3) (bit4 : Bool) :
    decodeCtl (ctlByte nr bit4 (ns ++ (0 : BitVec 1))) = .ctlI ns nr bit4 := by
  revert ns nr bit4
  decide

theorem decodeCtl_s (nr : Bits3) (bit4 : Bool) :
    decodeCtl (ctlByte nr bit4 0x1) = .ctlRr nr bit4 ∧ decodeCtl (ctlByte nr bit4 0x5) = .ctlRnr nr bit4 ∧
      decodeCtl (ctlByte nr bit4 0x9) = .ctlRej nr bit4 ∧ decodeCtl (ctlByte nr bit4 0xD) = .ctlSUnknown nr bit4 := by
  revert nr bit4
  decide

theorem decodeCtl_other (c : Byte) (h : (Instr.ctlOther c).wf = true) : decodeCtl c = .ctlOther c := by
  revert c
  decide

theorem decodeType_row (t : Byte) :
    encode (decodeType t) = [t] ∧ (decodeType t).wf = true ∧ (decodeType t).format = .kissType := by
  revert t
  decide

theorem decodeType_typeByte (port : Nibble) :
    decodeType (typeByte port 0) = .kissTypeData port ∧ decodeType (typeByte port 1) = .kissTypeTxdelay port := by
  revert port
  decide

theorem decodeType_nondata (port cmd : Nibble) (h : (Instr.kissTypeNondata port cmd).wf = true) :
    decodeType (typeByte port cmd) = .kissTypeNondata port cmd := by
  revert port cmd
  decide

theorem rxHuntOther_wf_iff (b : Byte) : (Instr.rxHuntOther b).wf = true ↔ b ≠ fend := bne_iff_ne

theorem rxFrameOther_wf_iff (b : Byte) : (Instr.rxFrameOther b).wf = true ↔ b ≠ fend ∧ b ≠ fesc := by
  simp only [Instr.wf, Bool.and_eq_true, bne_iff_ne]
  rfl

theorem rxEscOther_wf_iff (b : Byte) : (Instr.rxEscOther b).wf = true ↔ (b ≠ fend ∧ b ≠ tfend) ∧ b ≠ tfesc := by
  simp only [Instr.wf, Bool.and_eq_true, bne_iff_ne]
  rfl

theorem decodeRx_hunt_other {b : Byte} (h : b ≠ fend) (esc : Bool) : decodeRx .hunt esc b = .rxHuntOther b :=
  if_neg h

theorem decodeRx_frame_other {b : Byte} (hfend : b ≠ fend) (hfesc : b ≠ fesc) :
    decodeRx .frame false b = .rxFrameOther b := by
  simp only [decodeRx, if_neg hfend, if_neg hfesc]

theorem decodeRx_esc_other {b : Byte} (hfend : b ≠ fend) (htfend : b ≠ tfend) (htfesc : b ≠ tfesc) :
    decodeRx .frame true b = .rxEscOther b := by
  simp only [decodeRx, if_neg hfend, if_neg htfend, if_neg htfesc]

/-- A byte of the RX line is a byte of the row it is read as, whatever the unframer's state (R130). -/
theorem decodeRx_row (mode : RxMode) (esc : Bool) (b : Byte) :
    encode (decodeRx mode esc b) = [b] ∧ (decodeRx mode esc b).wf = true ∧ (decodeRx mode esc b).format = .kissRx := by
  by_cases hfend : b = fend
  · subst hfend
    cases mode <;> cases esc <;> exact ⟨rfl, rfl, rfl⟩
  cases mode with
  | hunt =>
    rw [decodeRx_hunt_other hfend]
    exact ⟨rfl, (rxHuntOther_wf_iff b).2 hfend, rfl⟩
  | frame =>
    cases esc with
    | false =>
      by_cases hfesc : b = fesc
      · subst hfesc; exact ⟨rfl, rfl, rfl⟩
      · rw [decodeRx_frame_other hfend hfesc]
        exact ⟨rfl, (rxFrameOther_wf_iff b).2 ⟨hfend, hfesc⟩, rfl⟩
    | true =>
      by_cases htfend : b = tfend
      · subst htfend; exact ⟨rfl, rfl, rfl⟩
      by_cases htfesc : b = tfesc
      · subst htfesc; exact ⟨rfl, rfl, rfl⟩
      · rw [decodeRx_esc_other hfend htfend htfesc]
        exact ⟨rfl, (rxEscOther_wf_iff b).2 ⟨⟨hfend, htfend⟩, htfesc⟩, rfl⟩

theorem typeCmd_eq_zero_iff (t : Byte) : typeCmd t = 0 ↔ t &&& 0x0F = 0x00 := by
  revert t
  decide

end Sys2Proof

/-! ### What the control rows and the type rows do (R99, R132, R195) -/

namespace Sys2Proof.Machine

theorem classify_i (ns nr : Bits3) (bit4 : Bool) : classify (ctlByte nr bit4 (ns ++ (0 : BitVec 1))) = ⟨.i, ns, nr⟩ := by
  revert ns nr bit4
  decide

theorem classify_s (nr : Bits3) (bit4 : Bool) :
    classify (ctlByte nr bit4 0x1) = ⟨.rr, 0, nr⟩ ∧ classify (ctlByte nr bit4 0x5) = ⟨.rnr, 0, nr⟩ ∧
      classify (ctlByte nr bit4 0x9) = ⟨.rej, 0, nr⟩ ∧ classify (ctlByte nr bit4 0xD) = ⟨.sUnknown, 0, nr⟩ := by
  revert nr bit4
  decide

theorem classify_other (c : Byte) (h : (Instr.ctlOther c).wf = true) : classify c = ⟨.other, 0, 0⟩ := by
  revert c
  decide

theorem exec_classify (c : Byte) (s : State) : exec (.classify c) s = classified (classify c) c s := rfl

/-- A control row does what CLASSIFY does with the row's byte (R195). -/
theorem exec_controlRow {i : Instr} (hwf : i.wf = true) (hformat : i.format = .ax25Ctl) {c : Byte} (hc : encode i = [c])
    (s : State) : exec i s = exec (.classify c) s := by
  rw [exec_classify]
  cases i with
  | ctlI ns nr bit4 => cases hc; rw [classify_i]; rfl
  | ctlRr nr bit4 =>
    obtain ⟨h, -, -, -⟩ := classify_s nr bit4
    cases hc; rw [h]; rfl
  | ctlRnr nr bit4 =>
    obtain ⟨-, h, -, -⟩ := classify_s nr bit4
    cases hc; rw [h]; rfl
  | ctlRej nr bit4 =>
    obtain ⟨-, -, h, -⟩ := classify_s nr bit4
    cases hc; rw [h]; rfl
  | ctlSUnknown nr bit4 =>
    obtain ⟨-, -, -, h⟩ := classify_s nr bit4
    cases hc; rw [h]; rfl
  | ctlOther => cases hc; rw [classify_other c hwf]; rfl
  | ctlUi | ctlSabm | ctlUa | ctlDisc | ctlDm => cases hc; rfl
  | _ => nomatch hformat

/-- A choice of rows reports the choice of the rows' reports. -/
theorem exec_ite {p : Prop} [Decidable p] {i j : Instr} {a b : List Byte} {s : State}
    (hi : exec i s = .next (Safety.reports a s)) (hj : exec j s = .next (Safety.reports b s)) :
    exec (if p then i else j) s = .next (Safety.reports (if p then a else b) s) := by
  split <;> assumption

/-- N(S) and N(R) as the bytes of a report (R97). -/
theorem control_fields (c : Byte) :
    (c >>> 1) &&& 7 = BitVec.ofNat 8 (c.extractLsb' 1 3).toNat ∧
      (c >>> 5) &&& 7 = BitVec.ofNat 8 (c.extractLsb' 5 3).toNat := by
  revert c
  decide

/-- `0` to `9`, then `A` to `F` (R99). -/
theorem hexDigit_eq (n : Nibble) (k : Nat) (h : n.toNat = k) :
    hexDigit n = if k < 10 then BitVec.ofNat 8 (0x30 + k) else BitVec.ofNat 8 (0x41 + (k - 10)) := by
  subst h
  unfold hexDigit
  split
  · rfl
  · rw [byteOf]
    congr 1
    omega

theorem otherLabel_eq (c : Byte) :
    otherLabel c = [0x43, 0x54, 0x4C, 0x3D, 0x30, 0x78,
      if c.toNat / 16 < 10 then BitVec.ofNat 8 (0x30 + c.toNat / 16) else BitVec.ofNat 8 (0x41 + (c.toNat / 16 - 10)),
      if c.toNat % 16 < 10 then BitVec.ofNat 8 (0x30 + c.toNat % 16) else BitVec.ofNat 8 (0x41 + (c.toNat % 16 - 10))] := by
  have hhigh : (c.extractLsb' 4 4).toNat = c.toNat / 16 := by
    have := c.isLt
    rw [BitVec.extractLsb'_toNat, Nat.shiftRight_eq_div_pow]
    omega
  have hlow : (c.extractLsb' 0 4).toNat = c.toNat % 16 := by
    rw [BitVec.extractLsb'_toNat, Nat.shiftRight_zero]
  rw [otherLabel, hexDigit_eq _ _ hhigh, hexDigit_eq _ _ hlow]

section
variable {s : State} {t : Byte} {payload : List Byte} (hovf : s.rxOvf = false) (hbuf : s.rxBuf = t :: payload)
include hovf hbuf

/-- A completed interval of command 0 is delivered (R132). -/
theorem closeFrame_data (hcmd : typeCmd t = 0) : closeFrame s = closeData (typePort t) payload s := by
  simp only [closeFrame, hovf, hbuf, hcmd, Bool.false_eq_true, if_false, if_true]

/-- A completed interval of another command is only counted (R132). -/
theorem closeFrame_nondata (hcmd : typeCmd t ≠ 0) : closeFrame s = closeNondata s := by
  simp only [closeFrame, hovf, hbuf, if_neg hcmd, Bool.false_eq_true, if_false]

/-- The row of the buffer's type byte does what close_frame does (R132). -/
theorem exec_decodeType : exec (decodeType t) s = .next (closeFrame s) := by
  unfold decodeType
  by_cases hdata : t &&& 0x0F = 0x00
  · have hpayload : payload = s.rxBuf.drop 1 := by rw [hbuf]; rfl
    rw [if_pos hdata, closeFrame_data hovf hbuf ((typeCmd_eq_zero_iff t).2 hdata), hpayload]
    rfl
  · rw [if_neg hdata, closeFrame_nondata hovf hbuf (mt (typeCmd_eq_zero_iff t).1 hdata)]
    split <;> rfl

end

/-- close_frame leaves the mode and the overrun bit to the opening of the next interval. -/
theorem closeFrame_rxMode_rxOvf (s : State) : (closeFrame s).rxMode = s.rxMode ∧ (closeFrame s).rxOvf = s.rxOvf := by
  rcases closeFrame_cases s with ⟨-, h⟩ | ⟨-, -, h⟩ | ⟨t, payload, -, -, -, h⟩ | ⟨t, payload, -, -, -, h⟩ <;>
    rw [h] <;> exact ⟨rfl, rfl⟩

theorem rxByte_frame_fend {s : State} (hm : s.rxMode = .frame) : rxByte fend s = openFrame (closeFrame s) := by
  simp [rxByte, hm]

theorem openFrame_of_frame {s : State} (hm : s.rxMode = .frame) (hovf : s.rxOvf = false) :
    openFrame s = { s with rxBuf := [], rxEsc := false } := by
  rw [openFrame, ← hm, ← hovf]

end Sys2Proof.Machine

namespace Sys2Proof.Encoding

open Sys2Proof.Machine Sys2Proof.Safety

/-- Settles O17: byte by byte, and row by row. -/
theorem controlRowsRoundTrip : Obligations.ControlRowsRoundTrip := by
  refine ⟨decodeCtl_row, fun i hwf hformat => ?_⟩
  cases i with
  | ctlI ns nr bit4 => exact ⟨_, rfl, decodeCtl_i ns nr bit4⟩
  | ctlRr nr bit4 =>
    obtain ⟨h, -, -, -⟩ := decodeCtl_s nr bit4
    exact ⟨_, rfl, h⟩
  | ctlRnr nr bit4 =>
    obtain ⟨-, h, -, -⟩ := decodeCtl_s nr bit4
    exact ⟨_, rfl, h⟩
  | ctlRej nr bit4 =>
    obtain ⟨-, -, h, -⟩ := decodeCtl_s nr bit4
    exact ⟨_, rfl, h⟩
  | ctlSUnknown nr bit4 =>
    obtain ⟨-, -, -, h⟩ := decodeCtl_s nr bit4
    exact ⟨_, rfl, h⟩
  | ctlOther ctrl => exact ⟨_, rfl, decodeCtl_other ctrl hwf⟩
  | ctlUi | ctlSabm | ctlUa | ctlDisc | ctlDm => exact ⟨_, rfl, rfl⟩
  | _ => nomatch hformat

/-- Settles O18: byte by byte, and row by row in the unframer state the row names. -/
theorem wireRowsRoundTrip : Obligations.WireRowsRoundTrip := by
  refine ⟨decodeType_row, fun i hwf hformat => ?_, decodeRx_row, fun i hwf hformat => ?_, fun _ => rfl, rfl, rfl⟩
  · cases i with
    | kissTypeData port => exact ⟨_, rfl, (decodeType_typeByte port).1⟩
    | kissTypeTxdelay port => exact ⟨_, rfl, (decodeType_typeByte port).2⟩
    | kissTypeNondata port cmd => exact ⟨_, rfl, decodeType_nondata port cmd hwf⟩
    | _ => nomatch hformat
  · cases i with
    | rxHuntFend => exact ⟨.hunt, false, _, rfl, rfl⟩
    | rxHuntOther b => exact ⟨.hunt, false, _, rfl, decodeRx_hunt_other ((rxHuntOther_wf_iff b).1 hwf) _⟩
    | rxFrameFend => exact ⟨.frame, false, _, rfl, rfl⟩
    | rxFrameFesc => exact ⟨.frame, false, _, rfl, rfl⟩
    | rxFrameOther b =>
      obtain ⟨hfend, hfesc⟩ := (rxFrameOther_wf_iff b).1 hwf
      exact ⟨.frame, false, _, rfl, decodeRx_frame_other hfend hfesc⟩
    | rxEscTfend => exact ⟨.frame, true, _, rfl, rfl⟩
    | rxEscTfesc => exact ⟨.frame, true, _, rfl, rfl⟩
    | rxEscOther b =>
      obtain ⟨⟨hfend, htfend⟩, htfesc⟩ := (rxEscOther_wf_iff b).1 hwf
      exact ⟨.frame, true, _, rfl, decodeRx_esc_other hfend htfend htfesc⟩
    | _ => nomatch hformat

/-- Settles O57: each row reports its class, its operands and its class's label. -/
theorem controlRowsReport : Obligations.ControlRowsReport := by
  intro ns nr bit4 s
  simp only [BitVec.ofNat_toNat]
  refine ⟨rfl, rfl, rfl, rfl, rfl, rfl, rfl, rfl, rfl, rfl, fun c => ?_⟩
  rw [← otherLabel_eq]
  rfl

/-- Settles O56: the table's cases are those by which the byte is read as a control row, and the row's report is known. -/
theorem classifyFollowsTheTable : Obligations.ClassifyFollowsTheTable := by
  intro c s
  obtain ⟨hencode, hwf, hformat⟩ := decodeCtl_row c
  have hrow : exec (decodeCtl c) s = exec (.classify c) s := exec_controlRow hwf hformat hencode s
  refine ⟨hrow, ?_⟩
  obtain ⟨hns, hnr⟩ := control_fields c
  obtain ⟨hui, hsabm, hua, hdisc, hdm, hi, hrr, hrnr, hrej, hunknown, hother⟩ :=
    controlRowsReport (c.extractLsb' 1 3) (c.extractLsb' 5 3) (c.getLsbD 4) s
  rw [← hrow, hns, hnr]
  exact exec_ite hui <| exec_ite hsabm <| exec_ite hua <| exec_ite hdisc <| exec_ite hdm <| exec_ite hi <|
    exec_ite hrr <| exec_ite hrnr <| exec_ite hrej <| exec_ite hunknown (hother c)

/-- Settles O37: a FEND in FRAME is close_frame and the opening of the next interval, and close_frame is the type row. -/
theorem typeRowsCloseTheInterval : Obligations.TypeRowsCloseTheInterval := by
  refine ⟨fun _ _ => rfl, fun _ _ => rfl, fun _ _ _ => rfl, fun s t payload hm hovf hbuf => ?_⟩
  obtain ⟨hmode, hovf'⟩ := closeFrame_rxMode_rxOvf s
  refine ⟨closeFrame s, exec_decodeType hovf hbuf, congrArg Host.Outcome.next ?_⟩
  rw [rxByte_frame_fend hm, openFrame_of_frame (hmode.trans hm) (hovf'.trans hovf)]

end Sys2Proof.Encoding

/-! ### The spec's escape map and layouts are the machine's (R71, R73, R97) -/

namespace Sys2Proof.Machine

open Sys2Proof.Safety

/-- The escape map of R73 is `escape` (R120). -/
theorem escaped_eq_escape (bytes : List Byte) : escaped bytes = escape bytes := (escape_eq_flatMap bytes).symm

/-- `u32 L`, then the bytes (R97). -/
theorem counted_eq_countedBytes (data : List Byte) : counted data = countedBytes data := by
  simp only [counted, Nat.shiftRight_eq_div_pow]
  rfl

theorem typeByte_eq (port : Nibble) :
    typeByte port 0 = BitVec.ofNat 8 (16 * port.toNat) ∧ typeByte port 1 = BitVec.ofNat 8 (16 * port.toNat + 1) := by
  revert port
  decide

theorem kissFrame_eq (type : Byte) (payload : List Byte) :
    kissFrame type payload = [0xC0, type] ++ escaped payload ++ [0xC0] := by
  rw [escaped_eq_escape]
  rfl

/-- Two line bytes for a special byte and one for any other (R73). -/
theorem escapeByte_length (b : Byte) : (escapeByte b).length = 1 + if b == 0xC0 || b == 0xDB then 1 else 0 := by
  revert b
  decide

theorem escape_length (bytes : List Byte) :
    (escape bytes).length = bytes.length + bytes.countP (fun b => b == 0xC0 || b == 0xDB) := by
  induction bytes with
  | nil => rfl
  | cons b rest ih =>
    rw [escape_cons, List.length_append, escapeByte_length, ih, List.length_cons, List.countP_cons]
    omega

theorem fend_notMem_escape (bytes : List Byte) : fend ∉ escape bytes := by
  rw [escape_eq_flatMap, List.mem_flatMap]
  rintro ⟨b, -, hb⟩
  exact fend_notMem_escapeByte b hb

/-- The milliseconds over ten, toward zero and clamped to a byte (R85, R125). -/
theorem txdelayValue_toNat (ms : Word32) :
    (txdelayValue ms).toNat = if ms.toInt < 0 then 0 else if 2550 ≤ ms.toInt then 255 else ms.toNat / 10 := by
  rw [txdelayValue, byteOf_toNat, clampInt]
  by_cases hneg : ms.toInt < 0
  · have hdiv : ms.toInt.tdiv 10 ≤ 0 := Int.tdiv_le_tdiv (by decide) hneg.le
    rw [if_pos hneg]
    omega
  · have hdiv : ms.toInt.tdiv 10 = ms.toInt / 10 := Int.tdiv_eq_ediv_of_nonneg (by omega)
    have hnat : ms.toInt = ms.toNat := by
      have := BitVec.toInt_eq_toNat_cond ms
      have := ms.isLt
      omega
    rw [if_neg hneg, hdiv]
    split <;> omega

/-! ### A data frame on the RX line (R121, R130, R132) -/

/-- The effect of a stream of RX bytes. -/
def rxBytes (bytes : List Byte) (s : State) : State := bytes.foldl (fun s b => rxByte b s) s

@[simp] theorem rxBytes_nil (s : State) : rxBytes [] s = s := rfl

@[simp] theorem rxBytes_cons (b : Byte) (rest : List Byte) (s : State) :
    rxBytes (b :: rest) s = rxBytes rest (rxByte b s) := rfl

theorem rxBytes_append (a b : List Byte) (s : State) : rxBytes (a ++ b) s = rxBytes b (rxBytes a s) := List.foldl_append

/-- A run over bytes of the RX line performs them in order and uses them up (R58). -/
theorem run_onLine (bytes : List Byte) (s : State) :
    core.run bytes.length (onLine bytes s) = .next { rxBytes bytes s with inputs := [] } := by
  induction bytes generalizing s with
  | nil => rfl
  | cons b rest ih =>
    have hstep : core.step (onLine (b :: rest) s) = .next (onLine rest (rxByte b s)) :=
      (step_rxByte (onLine (b :: rest) s) b (rest.map .rxByte) rfl).trans
        (congrArg Host.Outcome.next (rxByte_with_inputs b s _))
    simp only [List.length_cons, Host.Core.run, hstep]
    exact ih (rxByte b s)

/-- Inside a frame a byte that is no FEND goes through the unescaper (R121, R130). -/
theorem rxByte_frame_other {s : State} {b : Byte} (hm : s.rxMode = .frame) (hb : b ≠ fend) :
    rxByte b s = putAll (unescStep s.cfg.badEsc s.rxEsc b).2 { s with rxEsc := (unescStep s.cfg.badEsc s.rxEsc b).1 } := by
  simp only [rxByte, hm, if_neg hb]

theorem rxByte_frame_fesc {s : State} (hm : s.rxMode = .frame) (hesc : s.rxEsc = false) :
    rxByte fesc s = { s with rxEsc := true } := by
  rw [rxByte_frame_other hm (by decide), hesc, unescStep_fesc, putAll_nil]

/-- A byte for which the unescaper produces `v` stores `v`, if there is room (R131). -/
theorem rxByte_frame_put {s : State} {b v : Byte} (hm : s.rxMode = .frame) (hb : b ≠ fend)
    (hunesc : unescStep s.cfg.badEsc s.rxEsc b = (false, [v])) (hroom : s.rxBuf.length < s.cfg.rxMax) :
    rxByte b s = { s with rxEsc := false, rxBuf := s.rxBuf ++ [v] } := by
  rw [rxByte_frame_other hm hb, hunesc]
  exact putAll_fits [v] _ hroom

/-- Inside a frame, with no escape pending, the line bytes of one byte store that byte, if there is room (R73, R121). -/
theorem rxBytes_escapeByte (b : Byte) {s : State} (hm : s.rxMode = .frame) (hesc : s.rxEsc = false)
    (hroom : s.rxBuf.length < s.cfg.rxMax) :
    rxBytes (escapeByte b) s = { s with rxEsc := false, rxBuf := s.rxBuf ++ [b] } := by
  unfold escapeByte
  split
  case isTrue hfend =>
    rw [rxBytes_cons, rxByte_frame_fesc hm hesc, hfend]
    exact rxByte_frame_put hm (by decide) (unescStep_tfend _) hroom
  case isFalse hfend =>
    split
    case isTrue hfesc =>
      rw [rxBytes_cons, rxByte_frame_fesc hm hesc, hfesc]
      exact rxByte_frame_put hm (by decide) (unescStep_tfesc _) hroom
    case isFalse hfesc =>
      exact rxByte_frame_put hm hfend (by rw [hesc, unescStep_plain _ b hfesc]) hroom

/-- While there is room, an escaped sequence is stored unescaped. -/
theorem rxBytes_escape (bytes : List Byte) {s : State} (hm : s.rxMode = .frame) (hesc : s.rxEsc = false)
    (hroom : s.rxBuf.length + bytes.length ≤ s.cfg.rxMax) :
    rxBytes (escape bytes) s = { s with rxEsc := false, rxBuf := s.rxBuf ++ bytes } := by
  induction bytes generalizing s with
  | nil => rw [← hesc, List.append_nil]; rfl
  | cons b rest ih =>
    rw [List.length_cons] at hroom
    have hrest : (s.rxBuf ++ [b]).length + rest.length ≤ s.cfg.rxMax := by
      rw [List.length_append, List.length_singleton]
      omega
    rw [escape_cons, rxBytes_append, rxBytes_escapeByte b hm hesc (by omega),
      ih (s := { s with rxEsc := false, rxBuf := s.rxBuf ++ [b] }) hm rfl hrest, List.append_assoc, List.singleton_append]

/-- The type byte of a data frame needs no escape on any port but 12 (R71, R265). -/
theorem escapeByte_dataType (port : Nibble) (h : port ≠ 12) : escapeByte (typeByte port 0) = [typeByte port 0] := by
  revert port
  decide

theorem dataType_fields (port : Nibble) : typeCmd (typeByte port 0) = 0 ∧ typePort (typeByte port 0) = port := by
  revert port
  decide

/-- A whole data frame that fits the buffer is delivered on its port (R71, R132). -/
theorem rxBytes_kissFrame_rxOut {port : Nibble} (hport : port ≠ 12) (payload : List Byte) {s : State}
    (hm : s.rxMode = .hunt) (hroom : payload.length + 1 ≤ s.cfg.rxMax) :
    (rxBytes (kissFrame (typeByte port 0) payload) s).rxOut = s.rxOut ++ [⟨port, payload⟩] := by
  have hline : kissFrame (typeByte port 0) payload = fend :: (escape (typeByte port 0 :: payload) ++ [fend]) := by
    rw [escape_cons, escapeByte_dataType port hport]
    rfl
  obtain ⟨hcmd, hport'⟩ := dataType_fields port
  rw [hline, rxBytes_cons, rxByte_hunt_fend hm, rxBytes_append, rxBytes_escape _ rfl rfl (by simpa using hroom),
    rxBytes_cons, rxByte_frame_fend rfl, rxBytes_nil, openFrame_rxOut, closeFrame_data rfl rfl hcmd, closeData_rxOut, hport']
  rfl

end Sys2Proof.Machine

namespace Sys2Proof.Encoding

open Sys2Proof.Machine Sys2Proof.Safety

/-- Settles O39: the run is the stream of the frame's bytes, and such a frame is delivered. -/
theorem sentFrameIsReceived : Obligations.SentFrameIsReceived := by
  intro cfg port payload t hport hroom hsend
  have hline : t.txLine = kissFrame (typeByte port 0) payload := by cases hsend; rfl
  exact ⟨_, run_onLine _ _, by rw [hline]; exact rxBytes_kissFrame_rxOut hport payload rfl hroom⟩

/-- Settles O26: KISS_SEND emits a KISS frame; KISS_DATA is KISS_SEND of a data type byte. -/
theorem kissSendAppendsOneFrame : Obligations.KissSendAppendsOneFrame := by
  refine ⟨fun type payload s => ?_, fun port payload s => ?_⟩
  · rw [← kissFrame_eq]
    rfl
  · rw [← kissFrame_eq, ← (typeByte_eq port).1]
    rfl

/-- Settles O27: the byte sent is the clamped tenth. -/
theorem setTxdelaySendsOneByte : Obligations.SetTxdelaySendsOneByte := by
  refine fun ms s => ⟨txdelayValue ms, txdelayValue_toNat ms, ?_⟩
  rw [← kissFrame_eq, ← (typeByte_eq s.cfg.txdPort).2]
  rfl

/-- Settles O29: both report a counted sequence. -/
theorem escapeCommandsReport : Obligations.EscapeCommandsReport := by
  intro data s
  rw [counted_eq_countedBytes, counted_eq_countedBytes, escaped_eq_escape]
  exact ⟨rfl, rfl⟩

/-- Settles O31: byte by byte. -/
theorem escapeIsTheMap : Obligations.EscapeIsTheMap :=
  fun bytes => ⟨(escaped_eq_escape bytes).symm, escape_length bytes, fend_notMem_escape bytes⟩

end Sys2Proof.Encoding

/-! ### The spec's address block is the encoder's (R74, R150, R151, R152) -/

namespace Sys2Proof.Machine

open Sys2Proof.Safety

/-- Position i of the padded callsign is character i, or a space (R150). -/
theorem pad6_eq_map_range (callsign : List Byte) : pad6 callsign = (List.range 6).map fun i => callsign.getD i 0x20 := by
  refine List.ext_getElem (by simp) fun i hi _ => ?_
  have hi6 : i < 6 := by simpa using hi
  simp only [pad6, List.getElem_take, List.getElem_map, List.getElem_range, List.getElem_append, List.getElem_replicate,
    List.getD_eq_getElem?_getD]
  split
  case isTrue h => rw [List.getElem?_eq_getElem h, Option.getD_some]
  case isFalse h => rw [List.getElem?_eq_none (not_lt.1 h), Option.getD_none]

theorem ssidByte_eq (ssid : Nibble) (last : Bool) : ssidByte ssid last = BitVec.ofNat 8 (96 + 2 * ssid.toNat + last.toNat) := by
  revert ssid last
  decide

theorem unitBytes_eq_encAddr (a : Addr) (last : Bool) : unitBytes a last = encAddr a last := by
  rw [unitBytes, encAddr, ← ssidByte_eq, pad6_eq_map_range, List.map_map]
  rfl

/-- R152's loop from position `k` of `n` on, when the addresses fill the block to its end. -/
theorem encAddrs_eq_zipIdx (addrs : List Addr) (k n : Nat) (hn : k + addrs.length = n) :
    (addrs.zipIdx k).flatMap (fun p => unitBytes p.1 (p.2 + 1 == n)) = encAddrs addrs := by
  induction addrs generalizing k with
  | nil => rfl
  | cons a more ih =>
    rw [List.length_cons] at hn
    rw [List.zipIdx_cons, List.flatMap_cons, ih (k + 1) (by omega), unitBytes_eq_encAddr]
    cases more with
    | nil => simp [encAddrs, ← hn]
    | cons b rest =>
      have hlast : (k + 1 == n) = false := by
        rw [List.length_cons] at hn
        simp
        omega
      rw [hlast, encAddrs_cons_cons]

theorem addressBlock_eq_encAddrs (addrs : List Addr) : addressBlock addrs = encAddrs addrs :=
  encAddrs_eq_zipIdx addrs 0 addrs.length (Nat.zero_add _)

theorem addressBlock_eq_hdr (src dest : Addr) (path : List Addr) : addressBlock (dest :: src :: path) = hdr src dest path :=
  addressBlock_eq_encAddrs _

theorem ctrlI_eq (ns nr : Bits3) : ctrlI ns nr = BitVec.ofNat 8 (2 * ns.toNat + 32 * nr.toNat) := by
  revert ns nr
  decide

/-! ### What comes back of an encoded address (R150, R151, R159, R180) -/

/-- What the decoder reads of an address that comes back, in the form of `Safety.reported`. -/
def sentAddr (a : Addr) (last : Bool) : DecodedAddr := ⟨a.callsign, a.ssid, last, 3⟩

theorem sentAddr_bytes (a : Addr) (last : Bool) : (sentAddr a last).bytes = reported a last := rfl

/-- A callsign of at most six characters is filled up with spaces. -/
theorem pad6_of_length_le {callsign : List Byte} (h : callsign.length ≤ 6) :
    pad6 callsign = callsign ++ List.replicate (6 - callsign.length) 0x20 := by
  rw [pad6, List.take_append, List.take_of_length_le h, List.take_replicate, Nat.min_eq_left (Nat.sub_le _ _)]

/-- Characters below 0x80 come back from the wire. -/
theorem map_shiftChar_shiftRight {chars : List Byte} (h : ∀ c ∈ chars, c.toNat < 128) :
    (chars.map shiftChar).map (fun c : Byte => c >>> 1) = chars := by
  rw [List.map_map]
  exact (List.map_congr_left fun c hc => shiftChar_shiftRight c (h c hc)).trans chars.map_id

/-- The six characters of a unit. -/
def unitChars (u : AddrUnit) : List Byte := [u.c0 >>> 1, u.c1 >>> 1, u.c2 >>> 1, u.c3 >>> 1, u.c4 >>> 1, u.c5 >>> 1]

theorem decAddr_eq (u : AddrUnit) :
    decAddr u = ⟨stripSpaces (unitChars u), u.ssidByte.extractLsb' 1 4, u.ssidByte.getLsbD 0, u.ssidByte.extractLsb' 5 3⟩ :=
  rfl

/-- The unit of an address that comes back is decoded to that address, with `crh` 3. -/
theorem decAddr_of_returns {a : Addr} {last : Bool} {u : AddrUnit} (ha : returns a) (hu : u.bytes = encAddr a last) :
    decAddr u = sentAddr a last := by
  obtain ⟨-, hlen, hchars, hend⟩ := ha
  have hsplit : [u.c0, u.c1, u.c2, u.c3, u.c4, u.c5] ++ [u.ssidByte] =
      (pad6 a.callsign).map shiftChar ++ [ssidByte a.ssid last] := hu
  obtain ⟨hcall, hssid⟩ := List.append_inj' hsplit rfl
  have hpad := pad6_of_length_le hlen
  have hback : unitChars u = pad6 a.callsign := by
    have hlow : ∀ c ∈ pad6 a.callsign, c.toNat < 128 := by
      intro c hc
      rw [hpad, List.mem_append] at hc
      rcases hc with hc | hc
      · exact hchars c hc
      · rw [List.eq_of_mem_replicate hc]
        decide
    rw [← map_shiftChar_shiftRight hlow, ← hcall]
    rfl
  obtain ⟨hs, hl, hr⟩ := ssidByte_fields a.ssid last
  rw [decAddr_eq, hback, hpad, stripSpaces_append_spaces _ _ hend, List.singleton_inj.1 hssid, hs, hl, hr, sentAddr]

/-! ### The walk over an encoded address block (R152, R190) -/

/-- What the walk answers for a block of addresses that come back: the last bit is on the final one (R75). -/
def sentAddrs : List Addr → List DecodedAddr
  | [] => []
  | a :: more => sentAddr a more.isEmpty :: sentAddrs more

@[simp] theorem sentAddrs_length (addrs : List Addr) : (sentAddrs addrs).length = addrs.length := by
  induction addrs with
  | nil => rfl
  | cons a more ih => simp [sentAddrs, ih]

theorem sentAddrs_bytes (addrs : List Addr) : (sentAddrs addrs).flatMap DecodedAddr.bytes = reportedPath addrs := by
  induction addrs with
  | nil => rfl
  | cons a more ih =>
    rw [sentAddrs, List.flatMap_cons, ih, sentAddr_bytes]
    cases more with
    | nil => exact List.append_nil _
    | cons b rest => rfl

theorem encAddrs_cons (a : Addr) (more : List Addr) : encAddrs (a :: more) = encAddr a more.isEmpty ++ encAddrs more := by
  cases more with
  | nil => exact (List.append_nil _).symm
  | cons b rest => rfl

theorem walkUnits_encAddr {a : Addr} (ha : returns a) (last : Bool) (rest : List Byte) :
    walkUnits (encAddr a last ++ rest) =
      if last then some ([sentAddr a last], rest)
      else match walkUnits rest with
        | some (more, r) => some (sentAddr a last :: more, r)
        | none => none := by
  obtain ⟨u, hu, -, -, -⟩ := encAddr_unit a last
  rw [hu, walkUnits_unit, decAddr_of_returns ha hu.symm]
  rfl

/-- The walk reads back the whole block and stops behind it. -/
theorem walkUnits_encAddrs {addrs : List Addr} (hne : addrs ≠ []) (h : ∀ a ∈ addrs, returns a) (rest : List Byte) :
    walkUnits (encAddrs addrs ++ rest) = some (sentAddrs addrs, rest) := by
  induction addrs with
  | nil => exact absurd rfl hne
  | cons a more ih =>
    rw [List.forall_mem_cons] at h
    obtain ⟨ha, hmore⟩ := h
    rw [encAddrs_cons, List.append_assoc, walkUnits_encAddr ha]
    cases more with
    | nil => rfl
    | cons b rest' =>
      rw [ih (List.cons_ne_nil _ _) hmore]
      rfl

/-! ### PARSE by what the walk answers (R190) -/

/-- A PID byte follows a UI control byte and every even one (R79). -/
theorem pidFollows_iff (c : Byte) : pidFollows c = true ↔ c = 0x03 ∨ c.toNat % 2 = 0 := by
  revert c
  decide

section
variable {f : List Byte}

theorem parseBody_of_no_block (h : walkUnits f = none) : parseBody f = none := by
  rw [parseBody, h]

theorem parseBody_of_one_unit {a : DecodedAddr} {rest : List Byte} (h : walkUnits f = some ([a], rest)) :
    parseBody f = none := by
  rw [parseBody, h]

theorem parseBody_of_block_only {addrs : List DecodedAddr} (h : walkUnits f = some (addrs, [])) : parseBody f = none := by
  rw [parseBody, h]
  split
  case h_1 hmatch => nomatch hmatch
  case h_2 => rfl

variable {dest src : DecodedAddr} {path : List DecodedAddr} {ctrl : Byte} {rest : List Byte}
  (h : walkUnits f = some (dest :: src :: path, ctrl :: rest))
include h

theorem parseBody_of_pid_missing (hctrl : pidFollows ctrl = true) (hrest : rest = []) : parseBody f = none := by
  subst hrest
  simp only [parseBody, h, hctrl, if_true]

theorem parseBody_of_pid (hctrl : pidFollows ctrl = true) {pid : Byte} {info : List Byte} (hrest : rest = pid :: info) :
    parseBody f = some ⟨dest, src, path, ctrl, some pid, info⟩ := by
  subst hrest
  simp only [parseBody, h, hctrl, if_true]

theorem parseBody_of_no_pid (hctrl : pidFollows ctrl = false) :
    parseBody f = some ⟨dest, src, path, ctrl, none, rest⟩ := by
  simp only [parseBody, h, hctrl, Bool.false_eq_true, if_false]

end

section
variable {f : List Byte} {s : State} (hmode : s.cfg.fcsMode = .none)
include hmode

theorem exec_parse_null (h : parseBody f = none) : exec (.parse f) s = .next (parsedNull s) := by
  simp only [exec, execParse, parseFrame, hmode, h]
  rfl

theorem exec_parse_frame {p : ParsedFrame} (h : parseBody f = some p) : exec (.parse f) s = .next (reports p.bytes s) := by
  simp only [exec, execParse, parseFrame, hmode, h]
  rfl

end

/-- A header of addresses that come back, and a control byte behind it. -/
theorem walkUnits_hdr {src dest : Addr} {path : List Addr} (hsrc : returns src) (hdest : returns dest)
    (hpath : ∀ a ∈ path, returns a) (rest : List Byte) :
    walkUnits (hdr src dest path ++ rest) =
      some (sentAddr dest false :: sentAddr src path.isEmpty :: sentAddrs path, rest) :=
  walkUnits_encAddrs (List.cons_ne_nil _ _)
    (List.forall_mem_cons.2 ⟨hdest, List.forall_mem_cons.2 ⟨hsrc, hpath⟩⟩) rest

theorem parseReport_eq (src dest : Addr) (path : List Addr) (ctrl : Byte) (pid : Option Byte) (info : List Byte) :
    ParsedFrame.bytes ⟨sentAddr dest false, sentAddr src path.isEmpty, sentAddrs path, ctrl, pid, info⟩ =
      parseReport src dest path ctrl pid info := by
  rw [ParsedFrame.bytes, parseReport, sentAddrs_length, sentAddrs_bytes, counted_eq_countedBytes]
  rfl

section
variable {src dest : Addr} {path : List Addr} {s : State} (hmode : s.cfg.fcsMode = .none) (hsrc : returns src)
  (hdest : returns dest) (hpath : ∀ a ∈ path, returns a)
include hmode hsrc hdest hpath

/-- PARSE of a frame with a PID byte (R159). -/
theorem exec_parse_hdr_pid {ctrl : Byte} (hctrl : pidFollows ctrl = true) (pid : Byte) (info : List Byte) :
    exec (.parse (hdr src dest path ++ ctrl :: pid :: info)) s =
      .next (reports (parseReport src dest path ctrl (some pid) info) s) := by
  rw [exec_parse_frame hmode (parseBody_of_pid (walkUnits_hdr hsrc hdest hpath _) hctrl rfl), parseReport_eq]

/-- PARSE of a frame without a PID byte (R159). -/
theorem exec_parse_hdr_no_pid {ctrl : Byte} (hctrl : pidFollows ctrl = false) (info : List Byte) :
    exec (.parse (hdr src dest path ++ ctrl :: info)) s =
      .next (reports (parseReport src dest path ctrl none info) s) := by
  rw [exec_parse_frame hmode (parseBody_of_no_pid (walkUnits_hdr hsrc hdest hpath _) hctrl), parseReport_eq]

end

theorem ctrlI_classified (ns nr : Bits3) : pidFollows (ctrlI ns nr) = true ∧ classify (ctrlI ns nr) = ⟨.i, ns, nr⟩ := by
  revert ns nr
  decide

end Sys2Proof.Machine

namespace Sys2Proof.Encoding

open Sys2Proof.Machine Sys2Proof.Safety

/-- Settles O46: the walk reads the header back, and control 0x03 is followed by a PID. -/
theorem uiFrameParsesBack : Obligations.UiFrameParsesBack :=
  fun _ _ _ info _ hmode hsrc hdest hpath => exec_parse_hdr_pid hmode hsrc hdest hpath (by decide) pidNoLayer3 info

/-- Settles O47: the walk reads the header back, and the control byte is even and of class I. -/
theorem iFrameParsesBack : Obligations.IFrameParsesBack := by
  intro src dest path ns nr info s hmode hsrc hdest hpath
  obtain ⟨hpid, hclass⟩ := ctrlI_classified ns nr
  rw [← ctrlI_eq, exec_classify, hclass, BitVec.ofNat_toNat, BitVec.ofNat_toNat]
  exact ⟨exec_parse_hdr_pid hmode hsrc hdest hpath hpid pidNoLayer3 info, rfl⟩

/-- Settles O48: the walk reads the header back, and none of the four control bytes is followed by a PID. -/
theorem uFrameParsesBack : Obligations.UFrameParsesBack := by
  intro src dest path s hmode hsrc hdest hpath
  refine ⟨fun c hc => ?_, rfl, rfl, rfl, rfl⟩
  have hpid : ∀ c ∈ ([0x2F, 0x63, 0x43, 0x0F] : List Byte), pidFollows c = false := by decide
  exact exec_parse_hdr_no_pid hmode hsrc hdest hpath (hpid c hc) []

/-- Settles O45: the unit is decoded to the address. -/
theorem addressRoundTrip : Obligations.AddressRoundTrip := by
  intro a last u s ha hu
  show Host.Outcome.next (reports (decAddr u).bytes s) = _
  rw [decAddr_of_returns ha hu, sentAddr_bytes]

/-- Settles O41: the unit by its positions is the encoder's. -/
theorem encAddrReportsTheUnit : Obligations.EncAddrReportsTheUnit := by
  intro a last s
  have hcount : countedBytes (encAddr a last) = 0 :: 0 :: 0 :: 7 :: encAddr a last := by
    rw [countedBytes, encAddr_length]
    rfl
  rw [unitBytes_eq_encAddr, ← hcount]
  rfl

/-- Settles O42: R152's loop gives the encoder's header, and the rest of each frame stands as it is. -/
theorem buildersReportTheirFrames : Obligations.BuildersReportTheirFrames := by
  intro src dest path ctrl ns nr info s
  simp only [addressBlock_eq_hdr, counted_eq_countedBytes, ← ctrlI_eq, List.append_assoc]
  exact ⟨rfl, rfl, rfl, rfl⟩

/-- Settles O43: each expansion is the definition, and BUILD_U and KISS_SEND are known. -/
theorem pseudoOperationsExpand : Obligations.PseudoOperationsExpand := by
  intro src dest path port payload s
  have hbuildU (ctrl : Byte) : exec (.buildU src dest path ctrl) s =
      .next (reports (counted (addressBlock (dest :: src :: path) ++ [ctrl])) s) := by
    obtain ⟨-, -, h, -⟩ := buildersReportTheirFrames src dest path ctrl 0 0 [] s
    exact h
  rw [← (typeByte_eq port).1]
  exact ⟨hbuildU 0x2F, hbuildU 0x63, hbuildU 0x43, hbuildU 0x0F, rfl, rfl, rfl, rfl, rfl, rfl⟩

end Sys2Proof.Encoding

/-! ### A unit's fields (R74, R98, R180) -/

namespace Sys2Proof.Machine

open Sys2Proof.Safety

theorem stripSpaces_eq_rdropWhile (bytes : List Byte) : stripSpaces bytes = bytes.rdropWhile (· == 0x20) := rfl

/-- What is stripped is spaces. -/
theorem stripSpaces_spaces (bytes : List Byte) : ∃ k, bytes = stripSpaces bytes ++ List.replicate k 0x20 := by
  refine ⟨(bytes.rtakeWhile (· == 0x20)).length, ?_⟩
  have hspaces : bytes.rtakeWhile (· == 0x20) = List.replicate (bytes.rtakeWhile (· == 0x20)).length 0x20 :=
    List.eq_replicate_of_mem fun b hb =>
      beq_iff_eq.1 (List.mem_rtakeWhile_imp (p := (· == 0x20)) hb)
  rw [← hspaces, stripSpaces_eq_rdropWhile, List.rdropWhile_append_rtakeWhile]

/-- What is left does not end in a space. -/
theorem stripSpaces_getLast? (bytes : List Byte) : (stripSpaces bytes).getLast? ≠ some 0x20 := by
  rw [stripSpaces_eq_rdropWhile]
  intro hspace
  by_cases hnil : bytes.rdropWhile (· == 0x20) = []
  · rw [hnil] at hspace
    nomatch hspace
  · rw [List.getLast?_eq_some_getLast hnil, Option.some.injEq] at hspace
    exact List.rdropWhile_last_not _ _ hnil (beq_iff_eq.2 hspace)

theorem ssidByte_report (b : Byte) :
    (b.extractLsb' 1 4).setWidth 8 = BitVec.ofNat 8 (b.toNat / 2 % 16) ∧
      (if b.getLsbD 0 then 1 else 0) = BitVec.ofNat 8 (b.toNat % 2) ∧
      (b.extractLsb' 5 3).setWidth 8 = BitVec.ofNat 8 (b.toNat / 32) := by
  revert b
  decide

/-! ### The walk by positions (R190, R191) -/

/-- The first unit of a frame and what follows it. -/
theorem eq_unitAt_zero_append {f : List Byte} (h : 7 ≤ f.length) : f = (unitAt f 0).bytes ++ f.drop 7 := by
  match f, h with
  | _ :: _ :: _ :: _ :: _ :: _ :: _ :: _, _ => rfl

theorem unitAt_drop (f : List Byte) (j : Nat) : unitAt (f.drop 7) j = unitAt f (j + 1) := by
  simp only [unitAt, List.getD_eq_getElem?_getD, List.getElem?_drop, Nat.mul_add, Nat.mul_one, Nat.add_comm, Nat.add_left_comm]

theorem lastBitAt_drop (f : List Byte) (j : Nat) : lastBitAt (f.drop 7) j = lastBitAt f (j + 1) :=
  congrArg (fun u : AddrUnit => u.ssidByte.getLsbD 0) (unitAt_drop f j)

theorem walkUnits_of_length_lt {f : List Byte} (h : f.length < 7) : walkUnits f = none := by
  match f, h with
  | [], _ | [_], _ | [_, _], _ | [_, _, _], _ | [_, _, _, _], _ | [_, _, _, _, _], _ | [_, _, _, _, _, _], _ => rfl

/-- The walk over the first unit of a frame. -/
theorem walkUnits_unitAt_zero {f : List Byte} (h : 7 ≤ f.length) :
    walkUnits f =
      if lastBitAt f 0 then some ([decAddr (unitAt f 0)], f.drop 7)
      else match walkUnits (f.drop 7) with
        | some (more, r) => some (decAddr (unitAt f 0) :: more, r)
        | none => none := by
  conv_lhs => rw [eq_unitAt_zero_append h, walkUnits_unit]
  rfl

/-- No last bit among the whole units: the walk finds no end. -/
theorem walkUnits_of_no_last {f : List Byte} (h : ∀ j < f.length / 7, lastBitAt f j = false) : walkUnits f = none := by
  induction hn : f.length / 7 generalizing f with
  | zero => exact walkUnits_of_length_lt (by omega)
  | succ n ih =>
    have hrest : walkUnits (f.drop 7) = none := by
      have hdrop : (f.drop 7).length / 7 = n := by rw [List.length_drop]; omega
      refine ih (fun j hj => ?_) hdrop
      rw [lastBitAt_drop]
      exact h (j + 1) (by omega)
    rw [walkUnits_unitAt_zero (by omega), h 0 (by omega), hrest]
    rfl

/-- The walk answers the units up to the first last bit and stops behind it. -/
theorem walkUnits_of_blockEndsAt {f : List Byte} {k : Nat} (h : blockEndsAt f k) :
    walkUnits f = some ((List.range (k + 1)).map fun j => decAddr (unitAt f j), f.drop (7 * (k + 1))) := by
  obtain ⟨hk, hlast, hbefore⟩ := h
  induction k generalizing f with
  | zero =>
    rw [walkUnits_unitAt_zero (by omega), hlast]
    rfl
  | succ k ih =>
    have hrest := ih (f := f.drop 7) (by rw [List.length_drop]; omega) (by rw [lastBitAt_drop, hlast])
      fun j hj => by rw [lastBitAt_drop]; exact hbefore (j + 1) (by omega)
    rw [walkUnits_unitAt_zero (by omega), hbefore 0 (by omega), hrest, List.range_succ_eq_map (n := k + 1),
      List.map_cons, List.map_map, List.drop_drop, Nat.add_comm 7]
    simp only [unitAt_drop, Bool.false_eq_true, if_false]
    rfl

/-- A byte of a sequence stands before the rest behind it. -/
theorem drop_eq_cons_of_getElem? {l : List Byte} {n : Nat} {b : Byte} (h : l[n]? = some b) :
    l.drop n = b :: l.drop (n + 1) := by
  obtain ⟨hn, rfl⟩ := List.getElem?_eq_some_iff.1 h
  exact List.drop_eq_getElem_cons hn

section
variable {f : List Byte} {k : Nat} (h : blockEndsAt f k)
include h

/-- The block is the destination, the source and `k - 1` path units, where it has two units at least. -/
theorem walkUnits_of_blockEndsAt_pos (hk : 1 ≤ k) {c : Byte} (hc : f[7 * (k + 1)]? = some c) :
    walkUnits f = some (decAddr (unitAt f 0) :: decAddr (unitAt f 1) ::
      (List.range (k - 1)).map (fun j => decAddr (unitAt f (j + 2))), c :: f.drop (7 * (k + 1) + 1)) := by
  obtain ⟨m, rfl⟩ := Nat.exists_eq_add_of_le' hk
  rw [walkUnits_of_blockEndsAt h, drop_eq_cons_of_getElem? hc, List.range_succ_eq_map, List.range_succ_eq_map,
    Nat.add_sub_cancel]
  simp only [List.map_cons, List.map_map]
  rfl

variable {s : State} (hmode : s.cfg.fcsMode = .none)
include hmode

/-- A block of one unit has no source (R190). -/
theorem exec_parse_one_unit (hk : k = 0) : exec (.parse f) s = .next (parsedNull s) := by
  subst hk
  exact exec_parse_null hmode (parseBody_of_one_unit (walkUnits_of_blockEndsAt h))

/-- A block that fills the frame has no control byte (R190). -/
theorem exec_parse_block_only (hlen : 7 * (k + 1) = f.length) : exec (.parse f) s = .next (parsedNull s) := by
  have hwalk := walkUnits_of_blockEndsAt h
  rw [hlen, List.drop_length] at hwalk
  exact exec_parse_null hmode (parseBody_of_block_only hwalk)

/-- A control byte that takes a PID and has none (R190). -/
theorem exec_parse_pid_missing {c : Byte} (hc : f[7 * (k + 1)]? = some c) (hctrl : pidFollows c = true)
    (hlen : 7 * (k + 1) + 1 = f.length) : exec (.parse f) s = .next (parsedNull s) := by
  rcases Nat.eq_zero_or_pos k with hk | hk
  · exact exec_parse_one_unit h hmode hk
  · have hend : f.drop (7 * (k + 1) + 1) = [] := by rw [hlen, List.drop_length]
    exact exec_parse_null hmode (parseBody_of_pid_missing (walkUnits_of_blockEndsAt_pos h hk hc) hctrl hend)

end

/-- The report of a frame whose path is given by the positions of its units (R97). -/
theorem parsedFrame_bytes_of_range (dest src : DecodedAddr) (unit : Nat → AddrUnit) (n : Nat) (c : Byte) (pid : Option Byte)
    (info : List Byte) :
    ParsedFrame.bytes ⟨dest, src, (List.range n).map fun j => decAddr (unit j), c, pid, info⟩ =
      dest.bytes ++ src.bytes ++ [BitVec.ofNat 8 (n / 256), BitVec.ofNat 8 n] ++
        (List.range n).flatMap (fun j => (decAddr (unit j)).bytes) ++
        [c, if pid.isSome then 1 else 0, pid.getD 0] ++ counted info := by
  rw [ParsedFrame.bytes, List.flatMap_map, List.length_map, List.length_range, counted_eq_countedBytes]
  rfl

/-! ### The FCS on the wire (R201, R202) -/

/-- Two bytes are an FCS, low byte first, when they are its value. -/
theorem eq_fcsWire_iff (l h : Byte) (fcs : Word16) : [l, h] = fcsWire fcs ↔ 256 * h.toNat + l.toNat = fcs.toNat := by
  have hl := l.isLt
  have hh := h.isLt
  have hfcs := fcs.isLt
  have hlow : (fcs.extractLsb' 0 8).toNat = fcs.toNat % 256 := by
    rw [BitVec.extractLsb'_toNat, Nat.shiftRight_zero]
  have hhigh : (fcs.extractLsb' 8 8).toNat = fcs.toNat / 256 := by
    rw [BitVec.extractLsb'_toNat, Nat.shiftRight_eq_div_pow]
    omega
  rw [fcsWire, List.cons_eq_cons, List.singleton_inj, BitVec.toNat_eq, BitVec.toNat_eq, hlow, hhigh]
  omega

end Sys2Proof.Machine

namespace Sys2Proof.Encoding

open Sys2Proof.Machine Sys2Proof.Safety

/-- Settles O50: the callsign is what `stripSpaces` leaves, and the other fields are parts of the 7th byte. -/
theorem decAddrReportsTheFields : Obligations.DecAddrReportsTheFields := by
  refine ⟨fun u s => ?_, fun _ => rfl⟩
  obtain ⟨k, hk⟩ := stripSpaces_spaces (unitChars u)
  obtain ⟨hssid, hlast, hcrh⟩ := ssidByte_report u.ssidByte
  refine ⟨stripSpaces (unitChars u), k, (decAddr u).bytes, hk, stripSpaces_getLast? _, ?_, rfl, rfl⟩
  rw [decAddr_eq, DecodedAddr.bytes, hssid, hlast, hcrh]
  rfl

/-- Settles O51: the walk by positions answers the block, and each case is a case of `parseBody`. -/
theorem parseOutcomesAreComplete : Obligations.ParseOutcomesAreComplete := by
  intro f s hmode
  refine ⟨fun hnone => exec_parse_null hmode (parseBody_of_no_block (walkUnits_of_no_last hnone)), fun k hblock =>
    ⟨exec_parse_one_unit hblock hmode, exec_parse_block_only hblock hmode, fun c hc hctrl hlen =>
      exec_parse_pid_missing hblock hmode hc ((pidFollows_iff c).2 hctrl) hlen, fun c pid hk hc hctrl hpid => ?_,
      fun c hk hc hui hodd => ?_⟩⟩
  · rw [exec_parse_frame hmode (parseBody_of_pid (walkUnits_of_blockEndsAt_pos hblock hk hc) ((pidFollows_iff c).2 hctrl)
      (drop_eq_cons_of_getElem? hpid)), parsedFrame_bytes_of_range]
    rfl
  · have hno : pidFollows c = false := by
      rw [Bool.eq_false_iff, ne_eq, pidFollows_iff]
      rintro (rfl | heven)
      · exact hui rfl
      · omega
    rw [exec_parse_frame hmode (parseBody_of_no_pid (walkUnits_of_blockEndsAt_pos hblock hk hc) hno),
      parsedFrame_bytes_of_range]
    rfl

/-- Settles O55: a 16-bit value is reported by its two bytes, and the check compares the last two bytes by value. -/
theorem fcsCommandsReport : Obligations.FcsCommandsReport := by
  intro data s
  refine ⟨?_, fun hshort => ?_, fun body l h hdata => ?_⟩
  · rw [← word16Bytes_eq]
    rfl
  · exact if_pos hshort
  · subst hdata
    have hlong : ¬ (body ++ [l, h]).length < 2 := by simp
    have hok : (fcsOk (body ++ [l, h]) = true) = (256 * h.toNat + l.toNat = (crc16X25 body).toNat) := by
      rw [fcsOk_append_two, beq_iff_eq, eq_fcsWire_iff]
    rw [← word16Bytes_eq]
    simp only [exec, execFcsCheck, if_neg hlong, hok, fcsBody_append_two]
    rfl

end Sys2Proof.Encoding

/-! ## Proofs: the KISS unit (40_kiss.md) -/

/-! ### The unescaper as a loop, and which line sequences are escaped (R120, R121, R126) -/

namespace Sys2Proof.Machine

/-- One turn of the unescaper's loop: the new escape flag, and the bytes produced so far (R121). -/
def unescapeTurn (policy : BadEsc) (acc : Bool × List Byte) (b : Byte) : Bool × List Byte :=
  ((unescStep policy acc.1 b).1, acc.2 ++ (unescStep policy acc.1 b).2)

/-- The loop appends to what it has produced what `unescapeFrom` produces from its flag on. -/
theorem foldl_unescapeTurn (policy : BadEsc) (bytes : List Byte) (acc : Bool × List Byte) :
    (bytes.foldl (unescapeTurn policy) acc).2 = acc.2 ++ unescapeFrom policy acc.1 bytes := by
  induction bytes generalizing acc with
  | nil => simp
  | cons b rest ih => rw [List.foldl_cons, ih, unescapeFrom_cons, ← List.append_assoc]; rfl

theorem unescape_escape (policy : BadEsc) (bytes : List Byte) : unescape policy (escape bytes) = bytes := by
  unfold unescape
  induction bytes with
  | nil => rfl
  | cons b rest ih => rw [escape_cons, unescapeFrom_escapeByte, ih]

/-- A sequence without 0xC0 in which every 0xDB is followed at once by 0xDC or 0xDD (R126). -/
def WellEscaped (t : List Byte) : Prop :=
  (0xC0 : Byte) ∉ t ∧ ∀ i : Nat, t[i]? = some 0xDB → t[i + 1]? = some 0xDC ∨ t[i + 1]? = some 0xDD

theorem wellEscaped_nil : WellEscaped [] := ⟨List.not_mem_nil, nofun⟩

theorem wellEscaped_cons_iff (b : Byte) (rest : List Byte) :
    WellEscaped (b :: rest) ↔
      b ≠ fend ∧ (b = fesc → rest[0]? = some tfend ∨ rest[0]? = some tfesc) ∧ WellEscaped rest := by
  have hhead : (0xC0 : Byte) = b ↔ b = fend := eq_comm
  unfold WellEscaped
  rw [← Nat.and_forall_add_one]
  simp only [List.mem_cons, not_or, hhead, List.getElem?_cons_zero, List.getElem?_cons_succ, Option.some.injEq]
  exact ⟨fun ⟨⟨hb, hrest⟩, hfollow, hlater⟩ => ⟨hb, hfollow, hrest, hlater⟩,
    fun ⟨hb, hfollow, hrest, hlater⟩ => ⟨⟨hb, hrest⟩, hfollow, hlater⟩⟩

/-- An escape pair may stand before any well escaped sequence. -/
theorem wellEscaped_pair {c : Byte} (hc : c = tfend ∨ c = tfesc) {rest : List Byte} (h : WellEscaped rest) :
    WellEscaped (fesc :: c :: rest) := by
  have hplain : c ≠ fend ∧ c ≠ fesc := by rcases hc with rfl | rfl <;> decide
  rw [wellEscaped_cons_iff, wellEscaped_cons_iff]
  exact ⟨by decide, fun _ => hc.imp (congrArg some) (congrArg some), hplain.1, fun hfesc => absurd hfesc hplain.2, h⟩

theorem wellEscaped_escape (bytes : List Byte) : WellEscaped (escape bytes) := by
  induction bytes with
  | nil => exact wellEscaped_nil
  | cons b rest ih =>
    rw [escape_cons]
    unfold escapeByte
    split
    case isTrue hfend => exact wellEscaped_pair (.inl rfl) ih
    case isFalse hfend =>
      split
      case isTrue hfesc => exact wellEscaped_pair (.inr rfl) ih
      case isFalse hfesc => exact (wellEscaped_cons_iff _ _).2 ⟨hfend, fun h => absurd h hfesc, ih⟩

/-- Such a sequence is read from the left, a plain byte or an escape pair at a time. -/
theorem WellEscaped.exists_escape : ∀ {t : List Byte}, WellEscaped t → ∃ bytes, escape bytes = t
  | [], _ => ⟨[], rfl⟩
  | b :: rest, h => by
    obtain ⟨hfend, hfollow, hrest⟩ := (wellEscaped_cons_iff b rest).1 h
    by_cases hfesc : b = fesc
    · match rest, hfollow hfesc, hrest with
      | c :: more, hc, hrest =>
        obtain ⟨-, -, hmore⟩ := (wellEscaped_cons_iff c more).1 hrest
        obtain ⟨bytes, hbytes⟩ := hmore.exists_escape
        rcases hc with hc | hc
        · exact ⟨fend :: bytes, by rw [hfesc, Option.some.inj hc, ← hbytes]; rfl⟩
        · exact ⟨fesc :: bytes, by rw [hfesc, Option.some.inj hc, ← hbytes]; rfl⟩
    · obtain ⟨bytes, hbytes⟩ := hrest.exists_escape
      exact ⟨b :: bytes, by rw [escape_cons, escapeByte, if_neg hfend, if_neg hfesc, hbytes]; rfl⟩
  termination_by t => t.length

/-- The sequences that unescape and escape give back are the well escaped ones, and these are what `escape` produces. -/
theorem escape_unescape_iff (policy : BadEsc) (t : List Byte) : escape (unescape policy t) = t ↔ WellEscaped t := by
  constructor
  · intro h
    rw [← h]
    exact wellEscaped_escape _
  · intro h
    obtain ⟨bytes, rfl⟩ := h.exists_escape
    rw [unescape_escape]

end Sys2Proof.Machine

/-! ### The rows of FRAME (R130, R131, R132) -/

namespace Sys2Proof.Machine

theorem typeCmd_eq_zero_iff_mod (t : Byte) : typeCmd t = 0 ↔ t.toNat % 16 = 0 := by
  revert t
  decide

theorem typePort_eq (t : Byte) : typePort t = BitVec.ofNat 4 (t.toNat / 16) := by
  revert t
  decide

/-- Port half of a type byte by a shift (R134). -/
theorem typePort_eq_shift (t : Byte) : typePort t = (t >>> 4).setWidth 4 := by
  revert t
  decide

theorem closeFrame_cfg (s : State) : (closeFrame s).cfg = s.cfg := by
  rcases closeFrame_cases s with ⟨-, h⟩ | ⟨-, -, h⟩ | ⟨t, payload, -, -, -, h⟩ | ⟨t, payload, -, -, -, h⟩ <;>
    rw [h] <;> rfl

/-- An overrun interval is only counted (R132). -/
theorem closeFrame_overrun {s : State} (hovf : s.rxOvf = true) : closeFrame s = ctrInc .rxOverrun s := if_pos hovf

/-- An empty interval is skipped (R132). -/
theorem closeFrame_empty {s : State} (hovf : s.rxOvf = false) (hbuf : s.rxBuf = []) : closeFrame s = s := by
  simp only [closeFrame, hovf, hbuf, Bool.false_eq_true, if_false]

/-- A full buffer keeps what it holds, and the frame is marked overrun (R131). -/
theorem putAll_full {bytes : List Byte} (hne : bytes ≠ []) {s : State} (hfull : s.cfg.rxMax ≤ s.rxBuf.length) :
    putAll bytes s = { s with rxOvf := true } := by
  induction bytes generalizing s with
  | nil => exact absurd rfl hne
  | cons v rest ih =>
    have hput : put v s = { s with rxOvf := true } := if_neg (Nat.not_lt.2 hfull)
    rw [putAll_cons, hput]
    cases rest with
    | nil => rfl
    | cons w more => exact ih (List.cons_ne_nil w more) hfull

section
variable {s : State} {b : Byte} {esc : Bool} {bytes : List Byte} (hm : s.rxMode = .frame) (hb : b ≠ fend)
  (hunesc : unescStep s.cfg.badEsc s.rxEsc b = (esc, bytes))
include hm hb hunesc

/-- What the unescaper produces for a byte is stored, if there is room (R131). -/
theorem rxByte_frame_store (hroom : s.rxBuf.length + bytes.length ≤ s.cfg.rxMax) :
    rxByte b s = { s with rxEsc := esc, rxBuf := s.rxBuf ++ bytes } := by
  rw [rxByte_frame_other hm hb, hunesc]
  exact putAll_fits bytes _ hroom

/-- With a full buffer whatever it produces marks the overrun instead (R131). -/
theorem rxByte_frame_full (hne : bytes ≠ []) (hfull : s.cfg.rxMax ≤ s.rxBuf.length) :
    rxByte b s = { s with rxEsc := esc, rxOvf := true } := by
  rw [rxByte_frame_other hm hb, hunesc]
  exact putAll_full hne hfull

end

/-- With room for one of the two bytes of KEEP, the first is stored and the second marks the overrun (R131). -/
theorem rxByte_frame_room_for_one {s : State} {b v w : Byte} {esc : Bool} (hm : s.rxMode = .frame) (hb : b ≠ fend)
    (hunesc : unescStep s.cfg.badEsc s.rxEsc b = (esc, [v, w])) (hone : s.rxBuf.length + 1 = s.cfg.rxMax) :
    rxByte b s = { s with rxEsc := esc, rxBuf := s.rxBuf ++ [v], rxOvf := true } := by
  have hfirst : putAll [v] { s with rxEsc := esc } = { s with rxEsc := esc, rxBuf := s.rxBuf ++ [v] } :=
    putAll_fits [v] _ hone.le
  have hfull : s.cfg.rxMax ≤ (s.rxBuf ++ [v]).length := by rw [List.length_append, ← hone, List.length_singleton]
  rw [rxByte_frame_other hm hb, hunesc]
  exact (congrArg (putAll [w]) hfirst).trans (putAll_full (List.cons_ne_nil w []) hfull)

end Sys2Proof.Machine

/-! ### A whole stream of RX bytes (R134) -/

namespace Sys2Proof.Machine

open Sys2Proof.Safety

/-- A stream is read interval by interval: it has no FEND, or an interval without one stands before its first FEND. -/
theorem fendInduction {motive : List Byte → Prop} (last : ∀ bytes, fend ∉ bytes → motive bytes)
    (closed : ∀ interval rest, fend ∉ interval → motive rest → motive (interval ++ fend :: rest)) :
    ∀ bytes, motive bytes := by
  intro bytes
  induction hn : bytes.length using Nat.strong_induction_on generalizing bytes with
  | _ n ih =>
    by_cases hfend : fend ∈ bytes
    · obtain ⟨interval, rest, rfl, hno⟩ := List.eq_append_cons_of_mem hfend
      have hshorter : rest.length < n := by
        rw [← hn, List.length_append, List.length_cons]
        omega
      exact closed interval rest hno (ih _ hshorter rest rfl)
    · exact last bytes hfend

/-- The intervals that the FENDs of a stream close when it begins inside a frame. -/
def closedIntervals (bytes : List Byte) : List (List Byte) := (bytes.splitOn fend).dropLast

section
variable {interval : List Byte} (hno : fend ∉ interval) (rest : List Byte)
include hno

theorem closedIntervals_of_no_fend : closedIntervals interval = [] := by
  rw [closedIntervals, List.splitOn_eq_singleton hno, List.dropLast_singleton]

theorem closedIntervals_append_fend : closedIntervals (interval ++ fend :: rest) = interval :: closedIntervals rest := by
  rw [closedIntervals, List.splitOn_append_cons_self_of_not_mem hno,
    List.dropLast_cons_of_ne_nil (List.splitOn_ne_nil fend rest), closedIntervals]

/-- Before the first FEND nothing is completed. -/
theorem completedIntervals_of_no_fend : completedIntervals interval = [] := by
  rw [completedIntervals, ← fend, List.splitOn_eq_singleton hno]
  rfl

/-- The first FEND of a stream begins its first interval. -/
theorem completedIntervals_append_fend : completedIntervals (interval ++ fend :: rest) = closedIntervals rest := by
  rw [completedIntervals, ← fend, List.splitOn_append_cons_self_of_not_mem hno]
  rfl

end

/-- In HUNT a stream without a FEND is discarded (R130). -/
theorem rxBytes_hunt {bytes : List Byte} (hno : fend ∉ bytes) {s : State} (hm : s.rxMode = .hunt) : rxBytes bytes s = s := by
  induction bytes with
  | nil => rfl
  | cons b rest ih =>
    obtain ⟨hb, hrest⟩ := List.ne_and_not_mem_of_not_mem_cons hno
    rw [rxBytes_cons, rxByte_hunt_other hm (Ne.symm hb), ih hrest]

/-- A byte that is no FEND delivers nothing (R130). -/
theorem rxBytes_rxOut_of_no_fend {bytes : List Byte} (hno : fend ∉ bytes) (s : State) :
    (rxBytes bytes s).rxOut = s.rxOut := by
  induction bytes generalizing s with
  | nil => rfl
  | cons b rest ih =>
    obtain ⟨hb, hrest⟩ := List.ne_and_not_mem_of_not_mem_cons hno
    rw [rxBytes_cons, ih hrest]
    rcases rxByte_outcome b s with ⟨hout, -⟩ | ⟨hfend, -, -⟩
    · exact hout
    · exact absurd hfend.symm hb

/-- Inside a frame the bytes of an interval are buffered unescaped, while they fit (R121, R131). -/
theorem rxBytes_interval {interval : List Byte} (hno : fend ∉ interval) {s : State} (hm : s.rxMode = .frame)
    (hroom : s.rxBuf.length + (unescapeFrom s.cfg.badEsc s.rxEsc interval).length ≤ s.cfg.rxMax) :
    ∃ esc, rxBytes interval s =
      { s with rxEsc := esc, rxBuf := s.rxBuf ++ unescapeFrom s.cfg.badEsc s.rxEsc interval } := by
  induction interval generalizing s with
  | nil => exact ⟨s.rxEsc, by simp⟩
  | cons b rest ih =>
    obtain ⟨hb, hrest⟩ := List.ne_and_not_mem_of_not_mem_cons hno
    obtain ⟨esc, stored, hunesc⟩ : ∃ esc stored, unescStep s.cfg.badEsc s.rxEsc b = (esc, stored) := ⟨_, _, rfl⟩
    rw [unescapeFrom_cons, hunesc] at hroom ⊢
    rw [List.length_append, ← Nat.add_assoc] at hroom
    have hbyte : rxByte b s = { s with rxEsc := esc, rxBuf := s.rxBuf ++ stored } :=
      rxByte_frame_store hm (Ne.symm hb) hunesc (Nat.le_of_add_right_le hroom)
    obtain ⟨esc', hrestBytes⟩ := ih hrest (s := { s with rxEsc := esc, rxBuf := s.rxBuf ++ stored }) hm
      (by rwa [← List.length_append] at hroom)
    exact ⟨esc', by rw [rxBytes_cons, hbyte, hrestBytes, List.append_assoc]⟩

/-- Closing an interval delivers what R134 says it holds. -/
theorem closeFrame_rxOut {s : State} (hovf : s.rxOvf = false) {policy : BadEsc} {interval : List Byte}
    (hbuf : s.rxBuf = unescape policy interval) :
    (closeFrame s).rxOut = s.rxOut ++ (intervalDelivery policy interval).toList := by
  unfold intervalDelivery
  rw [← hbuf]
  cases hcase : s.rxBuf with
  | nil => simp [closeFrame_empty hovf hcase]
  | cons t payload =>
    by_cases hcmd : typeCmd t = 0
    · rw [closeFrame_data hovf hcase hcmd, closeData_rxOut, typePort_eq_shift]
      simp only [if_pos ((typeCmd_eq_zero_iff t).1 hcmd), Option.toList_some]
    · rw [closeFrame_nondata hovf hcase hcmd, closeNondata_rxOut]
      simp only [if_neg (mt (typeCmd_eq_zero_iff t).2 hcmd), Option.toList_none, List.append_nil]

/-- An interval that fits and its closing FEND deliver what the interval holds and open the next one. -/
theorem rxBytes_closed_interval {interval : List Byte} (hno : fend ∉ interval) {s : State}
    (hfit : (unescape s.cfg.badEsc interval).length ≤ s.cfg.rxMax) :
    ∃ t, rxBytes (interval ++ [fend]) (openFrame s) = openFrame t ∧ t.cfg = s.cfg ∧
      t.rxOut = s.rxOut ++ (intervalDelivery s.cfg.badEsc interval).toList := by
  obtain ⟨esc, hbuffered⟩ := rxBytes_interval hno (s := openFrame s) rfl (by simpa [unescape] using hfit)
  refine ⟨closeFrame { openFrame s with rxEsc := esc, rxBuf := unescape s.cfg.badEsc interval }, ?_, closeFrame_cfg _,
    closeFrame_rxOut rfl rfl⟩
  rw [rxBytes_append, hbuffered, rxBytes_cons, rxBytes_nil, rxByte_frame_fend rfl]
  rfl

/-- From an opened interval on, a stream delivers what the intervals it closes hold. -/
theorem rxBytes_openFrame_rxOut (bytes : List Byte) (s : State)
    (hfit : ∀ interval ∈ closedIntervals bytes, (unescape s.cfg.badEsc interval).length ≤ s.cfg.rxMax) :
    (rxBytes bytes (openFrame s)).rxOut = s.rxOut ++ (closedIntervals bytes).filterMap (intervalDelivery s.cfg.badEsc) := by
  induction bytes using fendInduction generalizing s with
  | last bytes hno =>
    rw [rxBytes_rxOut_of_no_fend hno, closedIntervals_of_no_fend hno, List.filterMap_nil, List.append_nil, openFrame_rxOut]
  | closed interval rest hno ih =>
    rw [closedIntervals_append_fend hno] at hfit ⊢
    obtain ⟨hfirst, hrest⟩ := List.forall_mem_cons.1 hfit
    obtain ⟨t, hclosed, hcfg, hout⟩ := rxBytes_closed_interval hno hfirst
    rw [← hcfg] at hrest
    rw [List.append_cons, rxBytes_append, hclosed, ih t hrest, hout, hcfg, List.append_assoc,
      List.filterMap_eq_flatMap_toList, List.filterMap_eq_flatMap_toList, List.flatMap_cons]

/-- In HUNT a stream delivers what its completed intervals hold (R134). -/
theorem rxBytes_hunt_rxOut (bytes : List Byte) {s : State} (hm : s.rxMode = .hunt)
    (hfit : ∀ interval ∈ completedIntervals bytes, (unescape s.cfg.badEsc interval).length ≤ s.cfg.rxMax) :
    (rxBytes bytes s).rxOut = s.rxOut ++ streamDeliveries s.cfg.badEsc bytes := by
  unfold streamDeliveries
  induction bytes using fendInduction with
  | last bytes hno => rw [rxBytes_hunt hno hm, completedIntervals_of_no_fend hno, List.filterMap_nil, List.append_nil]
  | closed before rest hno =>
    rw [completedIntervals_append_fend hno] at hfit ⊢
    rw [rxBytes_append, rxBytes_hunt hno hm, rxBytes_cons, rxByte_hunt_fend hm, rxBytes_openFrame_rxOut rest s hfit]

end Sys2Proof.Machine

/-! ### The statements of 40_kiss.md -/

namespace Sys2Proof.Kiss

open Sys2Proof.Machine Sys2Proof.Safety

/-- Settles O38: by the intervals of the stream, each buffered unescaped and closed by its FEND. -/
theorem wholeStreamDeliversItsIntervals : Obligations.WholeStreamDeliversItsIntervals :=
  fun cfg bytes hfit => ⟨_, run_onLine bytes _, rxBytes_hunt_rxOut bytes (s := State.resetWith cfg) rfl hfit⟩

/-- Settles O28: the step's cases, and the loop is `unescapeFrom` read from the left. -/
theorem unescapeFollowsItsSteps : Obligations.UnescapeFollowsItsSteps :=
  ⟨fun policy => ⟨unescStep_tfend policy, unescStep_tfesc policy, unescStep_fesc policy, unescStep_plain policy⟩,
    fun b htfend htfesc => ⟨unescStep_bad .pass b htfend htfesc, unescStep_bad .drop b htfend htfesc,
      unescStep_bad .keep b htfend htfesc⟩,
    fun policy bytes => (foldl_unescapeTurn policy bytes (false, [])).symm⟩

/-- Settles O32: law 2 says that the sequences given back are those that `escape` produces. -/
theorem escapeLaws : Obligations.EscapeLaws := by
  refine ⟨unescape_escape, escape_unescape_iff, fend_notMem_escape, fun type payload s t hsend =>
    ⟨escape payload, ?_, fend_notMem_escape payload⟩⟩
  cases hsend
  simp [kissFrame, fend]

/-- Settles O30: LINE_RESET is `lineReset`, which the second time finds nothing to reset. -/
theorem lineResetPutsTheUnframerBack : Obligations.LineResetPutsTheUnframerBack := by
  refine ⟨fun s => rfl, fun s t u hfirst hsecond => ?_⟩
  cases hfirst
  cases hsecond
  rfl

/-- Settles O34: a FEND in FRAME is close_frame, in its four cases, and the opening of the next interval. -/
theorem frameFendClosesTheInterval : Obligations.FrameFendClosesTheInterval := by
  intro s hm
  have hexec : exec .rxFrameFend s = .next (openFrame (closeFrame s)) :=
    congrArg Host.Outcome.next (rxByte_frame_fend hm)
  rw [hexec]
  refine ⟨fun hovf => ?_, fun hovf hbuf => ?_, fun t payload hovf hbuf hcmd => ?_, fun t payload hovf hbuf hcmd => ?_⟩
  · rw [closeFrame_overrun hovf, openFrame, ← hm]
    rfl
  · rw [closeFrame_empty hovf hbuf, openFrame_of_frame hm hovf, ← hbuf]
  · rw [closeFrame_data hovf hbuf ((typeCmd_eq_zero_iff_mod t).2 hcmd), typePort_eq,
      openFrame_of_frame (s := closeData _ _ s) hm hovf]
    rfl
  · rw [closeFrame_nondata hovf hbuf (mt (typeCmd_eq_zero_iff_mod t).1 hcmd),
      openFrame_of_frame (s := closeNondata s) hm hovf]
    rfl

/-- Settles O35: each row stores what the unescaper produces for its byte. -/
theorem frameRowsStoreBytes : Obligations.FrameRowsStoreBytes := by
  intro s hm
  refine ⟨fun hesc => ⟨?_, fun hroom b hfend hfesc => ?_⟩, fun hesc => ⟨fun hroom => ⟨?_, ?_⟩,
    fun b hfend htfend htfesc => ⟨fun hpolicy hroom => ?_, fun hpolicy => ?_, fun hpolicy hroom => ?_⟩⟩⟩
  all_goals refine congrArg Host.Outcome.next ?_
  · exact rxByte_frame_fesc hm hesc
  · rw [rxByte_frame_put hm hfend (by rw [hesc]; exact unescStep_plain _ b hfesc) hroom, ← hesc]
  · exact rxByte_frame_put hm (by decide) (by rw [hesc]; exact unescStep_tfend _) hroom
  · exact rxByte_frame_put hm (by decide) (by rw [hesc]; exact unescStep_tfesc _) hroom
  · exact rxByte_frame_put hm hfend (by rw [hesc, hpolicy]; exact unescStep_bad _ b htfend htfesc) hroom
  · rw [rxByte_frame_other hm hfend, hesc, hpolicy, unescStep_bad _ b htfend htfesc]
    rfl
  · exact rxByte_frame_store hm hfend (by rw [hesc, hpolicy]; exact unescStep_bad _ b htfend htfesc) hroom

/-- Settles O36: what the unescaper produces for the row's byte meets a full buffer, or fills it. -/
theorem frameRowsOverrun : Obligations.FrameRowsOverrun := by
  intro s hm
  refine ⟨fun hfull => ⟨fun hesc b hfend hfesc => ?_, fun hesc => ⟨?_, ?_, fun b hfend htfend htfesc hpolicy => ?_⟩⟩,
    fun hone hesc hpolicy b hfend htfend htfesc => ?_⟩
  all_goals refine congrArg Host.Outcome.next ?_
  · rw [rxByte_frame_full hm hfend (by rw [hesc]; exact unescStep_plain _ b hfesc) (List.cons_ne_nil _ _) hfull, ← hesc]
  · exact rxByte_frame_full hm (by decide) (by rw [hesc]; exact unescStep_tfend _) (List.cons_ne_nil _ _) hfull
  · exact rxByte_frame_full hm (by decide) (by rw [hesc]; exact unescStep_tfesc _) (List.cons_ne_nil _ _) hfull
  · refine rxByte_frame_full hm hfend (by rw [hesc, unescStep_bad _ b htfend htfesc]) ?_ hfull
    cases hcase : s.cfg.badEsc with
    | pass => simp
    | drop => exact absurd hcase hpolicy
    | keep => simp
  · exact rxByte_frame_room_for_one hm hfend (by rw [hesc, hpolicy]; exact unescStep_bad _ b htfend htfesc) hone

end Sys2Proof.Kiss

/-! ## Proofs: the AX.25 encoder (41_ax25_encoder.md) -/

/-! ### An encoded address block by its positions (R151, R152, R154) -/

namespace Sys2Proof.Machine

open Sys2Proof.Safety

@[simp] theorem shiftChar_getLsbD_zero (c : Byte) : (shiftChar c).getLsbD 0 = false := by
  simp [shiftChar]

/-- Bit 0 of a unit's 7th byte is its last bit. -/
theorem encAddr_last_bit (a : Addr) (last : Bool) : ((encAddr a last).getD 6 0).getLsbD 0 = last := by
  obtain ⟨-, hlast, -⟩ := ssidByte_fields a.ssid last
  rw [encAddr, List.getD_append_right _ _ _ _ (by simp)]
  simpa using hlast

/-- Bit 0 of each callsign byte of a unit is 0: the characters are shifted left by one. -/
theorem encAddr_callsign_bit (a : Addr) (last : Bool) {i : Nat} (hi : i < 6) :
    ((encAddr a last).getD i 0).getLsbD 0 = false := by
  have hpad : i < (pad6 a.callsign).length := by simpa using hi
  rw [encAddr, List.getD_append _ _ _ _ (by simpa using hi), List.getD_eq_getElem?_getD, List.getElem?_map,
    List.getElem?_eq_getElem hpad]
  exact shiftChar_getLsbD_zero _

section
variable {addrs : List Addr} {j : Nat} {a : Addr} (h : addrs[j]? = some a)
include h

/-- From byte `7 j` on, a block holds the unit of address `j` and the units behind it; the last bit is on the final one. -/
theorem drop_encAddrs :
    (encAddrs addrs).drop (7 * j) = encAddr a (j + 1 == addrs.length) ++ encAddrs (addrs.drop (j + 1)) := by
  induction addrs generalizing j with
  | nil => nomatch h
  | cons b more ih =>
    cases j with
    | zero =>
      obtain rfl : b = a := by simpa using h
      rw [encAddrs_cons]
      cases more <;> rfl
    | succ j =>
      have hskip : (encAddrs (b :: more)).drop 7 = encAddrs more := by
        rw [encAddrs_cons, List.drop_left' (encAddr_length _ _)]
      rw [Nat.mul_succ, Nat.add_comm, ← List.drop_drop, hskip, ih (by simpa using h), List.length_cons,
        List.drop_succ_cons]
      simp

theorem take_drop_encAddrs : ((encAddrs addrs).drop (7 * j)).take 7 = encAddr a (j + 1 == addrs.length) := by
  rw [drop_encAddrs h, List.take_left' (encAddr_length _ _)]

/-- Byte `i` of unit `j`. -/
theorem encAddrs_getD {i : Nat} (hi : i < 7) :
    (encAddrs addrs).getD (7 * j + i) 0 = (encAddr a (j + 1 == addrs.length)).getD i 0 := by
  have hdrop : ((encAddrs addrs).drop (7 * j)).getD i 0 = (encAddrs addrs).getD (7 * j + i) 0 := by
    rw [List.getD_eq_getElem?_getD, List.getElem?_drop, List.getD_eq_getElem?_getD]
  rw [← hdrop, drop_encAddrs h, List.getD_append _ _ _ _ (by simpa using hi)]

end

/-- Only the final unit of a block has its last bit set, whatever follows the block. -/
theorem lastBitAt_encAddrs_append {addrs : List Addr} {j : Nat} (hj : j < addrs.length) (rest : List Byte) :
    lastBitAt (encAddrs addrs ++ rest) j = (j + 1 == addrs.length) := by
  rw [lastBitAt, List.getD_append _ _ _ _ (by rw [encAddrs_length]; omega),
    encAddrs_getD (List.getElem?_eq_getElem hj) (by decide), encAddr_last_bit]

/-- The header is the address block of every frame it begins, whatever its addresses. -/
theorem blockEndsAt_hdr_append (src dest : Addr) (path : List Addr) (rest : List Byte) :
    blockEndsAt (hdr src dest path ++ rest) (path.length + 1) := by
  have hlast {j : Nat} (hj : j < path.length + 2) : lastBitAt (hdr src dest path ++ rest) j = (j + 1 == path.length + 2) :=
    lastBitAt_encAddrs_append (addrs := dest :: src :: path) hj rest
  refine ⟨?_, ?_, fun j hj => ?_⟩
  · rw [List.length_append, hdr_length]
    omega
  · rw [hlast (Nat.lt_succ_self _), beq_self_eq_true]
  · rw [hlast (by omega), beq_eq_false_iff_ne]
    omega

end Sys2Proof.Machine

/-! ### The statements of 41_ax25_encoder.md on headers and U frames -/

namespace Sys2Proof.Encoding

open Sys2Proof.Machine Sys2Proof.Safety

/-- Settles O44: unit `j` of the block is the encoded address `j`, whose bits 0 are known. -/
theorem headerLaws : Obligations.HeaderLaws := by
  intro src dest path
  refine ⟨hdr_length src dest path, fun j a ha => ?_⟩
  have hcount : 2 + path.length = (dest :: src :: path).length := Nat.add_comm 2 _
  rw [hcount, hdr]
  refine ⟨take_drop_encAddrs ha, ?_, fun i hi => ?_⟩
  · rw [encAddrs_getD ha (by decide), encAddr_last_bit]
  · rw [encAddrs_getD ha (by omega), encAddr_callsign_bit _ _ hi]

/-- Settles O49: the block is the header, so the control byte is the frame's last byte and the PID it takes is missing. -/
theorem buildUWithPidControlParsesNull : Obligations.BuildUWithPidControlParsesNull := by
  intro src dest path c s hmode hc
  have hblock : blockEndsAt (uFrame src dest path c) (path.length + 1) := blockEndsAt_hdr_append src dest path [c]
  have hend : 7 * (path.length + 1 + 1) = (hdr src dest path).length := by
    rw [hdr_length]
    omega
  refine exec_parse_pid_missing hblock hmode (c := c) ?_ ((pidFollows_iff c).2 hc) ?_
  · rw [hend, uFrame, List.getElem?_concat_length]
  · rw [hend, uFrame, List.length_append, List.length_singleton]

end Sys2Proof.Encoding

/-! ## Proofs: the AX.25 decoder (42_ax25_decoder.md) -/

/-! ### The CRC register is linear and loses nothing (R200) -/

namespace Sys2Proof.Machine

open Sys2Proof.Safety

/-- A turn of the register is the shift and what the bit shifted out adds to it. -/
theorem crcBit_eq_xor (r : Word16) : crcBit r = (r >>> 1) ^^^ (if r.getLsbD 0 then 0x8408 else 0) := by
  unfold crcBit
  split
  · rfl
  · exact BitVec.xor_zero.symm

/-- The turn tests bit 0 as R200's loop does. -/
theorem crcBit_eq_mod : crcBit = fun r : Word16 => if r.toNat % 2 = 1 then (r >>> 1) ^^^ 0x8408 else r >>> 1 := by
  funext r
  have hbit : (r.getLsbD 0 = true) = (r.toNat % 2 = 1) := by
    rw [BitVec.getLsbD, Nat.testBit_zero, decide_eq_true_eq]
  simp only [crcBit, hbit]

theorem crcBit_xor (x y : Word16) : crcBit (x ^^^ y) = crcBit x ^^^ crcBit y := by
  have hadded : ∀ p q : Bool, (if p ^^ q then (0x8408 : Word16) else 0) =
      (if p then 0x8408 else 0) ^^^ (if q then 0x8408 else 0) := by decide
  simp only [crcBit_eq_xor, BitVec.ushiftRight_xor_distrib, BitVec.getLsbD_xor, hadded]
  ac_rfl

theorem crcShift8_xor (x y : Word16) : crcShift8 (x ^^^ y) = crcShift8 x ^^^ crcShift8 y := by
  simp only [crcShift8, crcBit_xor]

/-- The top bit after a turn is the bit that the turn shifted out. -/
theorem crcBit_getLsbD_top (r : Word16) : (crcBit r).getLsbD 15 = r.getLsbD 0 := by
  rw [crcBit_eq_xor]
  cases r.getLsbD 0 <;> simp

/-- A register is what a shift leaves of it and the bit shifted out. -/
theorem eq_of_ushiftRight_one_eq {x y : Word16} (hshift : x >>> 1 = y >>> 1) (hbit : x.getLsbD 0 = y.getLsbD 0) :
    x = y := by
  apply BitVec.eq_of_getLsbD_eq
  intro i _
  cases i with
  | zero => exact hbit
  | succ i => simpa [Nat.add_comm] using congrArg (·.getLsbD i) hshift

theorem crcBit_injective : Function.Injective crcBit := by
  intro x y h
  have hbit : x.getLsbD 0 = y.getLsbD 0 := by rw [← crcBit_getLsbD_top, h, crcBit_getLsbD_top]
  rw [crcBit_eq_xor, crcBit_eq_xor, hbit, BitVec.xor_left_inj] at h
  exact eq_of_ushiftRight_one_eq h hbit

theorem crcShift8_injective : Function.Injective crcShift8 := crcBit_injective.iterate 8

/-- A byte in the upper half comes down unchanged in eight turns. -/
theorem crcShift8_upper (h : Byte) : crcShift8 (h.setWidth 16 <<< 8) = h.setWidth 16 := by
  revert h
  decide

/-! ### The residue of a sequence that ends in its FCS (R202) -/

/-- The 16-bit value of two bytes on the wire, low byte first (R201). -/
def wireWord (l h : Byte) : Word16 := l.setWidth 16 ^^^ (h.setWidth 16 <<< 8)

/-- An FCS is the value of its two bytes. -/
theorem wireWord_extract (fcs : Word16) : wireWord (fcs.extractLsb' 0 8) (fcs.extractLsb' 8 8) = fcs := by
  apply BitVec.eq_of_getLsbD_eq
  intro i hi
  by_cases hlow : i < 8
  · simp [wireWord, hlow, hi]
  · have hhigh : i - 8 < 8 := by omega
    simp [wireWord, hlow, hi, hhigh, Nat.add_sub_cancel' (Nat.not_lt.1 hlow)]

theorem extract_wireWord (l h : Byte) :
    (wireWord l h).extractLsb' 0 8 = l ∧ (wireWord l h).extractLsb' 8 8 = h := by
  constructor <;> apply BitVec.eq_of_getLsbD_eq <;> intro i hi
  · have hword : i < 16 := by omega
    simp [wireWord, hi, hword]
  · have hword : i < 16 ∧ 8 + i < 16 := by omega
    simp [wireWord, hi, hword]

theorem eq_fcsWire_iff_wireWord (l h : Byte) (fcs : Word16) : [l, h] = fcsWire fcs ↔ wireWord l h = fcs := by
  rw [fcsWire, List.cons_eq_cons, List.singleton_inj]
  constructor
  · rintro ⟨rfl, rfl⟩
    exact wireWord_extract fcs
  · rintro rfl
    obtain ⟨hlow, hhigh⟩ := extract_wireWord l h
    exact ⟨hlow.symm, hhigh.symm⟩

/-- Two bytes enter the register as their 16-bit value does at once. -/
theorem crcByte_crcByte (r : Word16) (l h : Byte) :
    crcByte (crcByte r l) h = crcShift8 (crcShift8 (r ^^^ wireWord l h)) := by
  rw [wireWord, ← BitVec.xor_assoc, crcShift8_xor _ (h.setWidth 16 <<< 8), crcShift8_upper]
  rfl

/-- Sixteen turns leave the residue of the register 0xFFFF, and of no other. -/
theorem crcShift8_crcShift8_eq_residue_iff (r : Word16) : crcShift8 (crcShift8 r) = 0xF0B8 ↔ r = 0xFFFF := by
  have hfirst : crcShift8 0xFFFF = 0x0F87 := by decide
  have hsecond : crcShift8 0x0F87 = 0xF0B8 := by decide
  rw [← hsecond, ← hfirst, crcShift8_injective.eq_iff, crcShift8_injective.eq_iff]

theorem crcRegister_append_two_iff (body : List Byte) (l h : Byte) :
    crcRegister (body ++ [l, h]) = 0xF0B8 ↔ wireWord l h = crc16X25 body := by
  have hturns : crcRegister (body ++ [l, h]) = crcShift8 (crcShift8 (crcRegister body ^^^ wireWord l h)) :=
    (crcRegister_append body [l, h]).trans (crcByte_crcByte _ l h)
  have hcancel : crcRegister body ^^^ crc16X25 body = 0xFFFF := by
    rw [crc16X25, ← BitVec.xor_assoc, BitVec.xor_self, BitVec.zero_xor]
  rw [hturns, crcShift8_crcShift8_eq_residue_iff, ← hcancel, BitVec.xor_right_inj]

/-- One byte or none does not leave the residue. -/
theorem crcRegister_ne_residue {f : List Byte} (hshort : f.length < 2) : crcRegister f ≠ 0xF0B8 := by
  match f, hshort with
  | [], _ => decide
  | [b], _ =>
    revert b
    decide

/-! ### What `fcs_ok` and PARSE with an FCS say (R190, R202, R234) -/

theorem fcsOk_append_two_iff (body : List Byte) (l h : Byte) :
    fcsOk (body ++ [l, h]) = true ↔ 256 * h.toNat + l.toNat = (crc16X25 body).toNat := by
  rw [fcsOk_append_two, beq_iff_eq, eq_fcsWire_iff]

theorem fcsOk_of_short {f : List Byte} (hshort : f.length < 2) : fcsOk f = false := by
  rw [fcsOk, decide_eq_false (Nat.not_le.2 hshort), Bool.false_and]

theorem eq_append_two_of_fcsOk {f : List Byte} (hok : fcsOk f = true) : ∃ body l h, f = body ++ [l, h] :=
  eq_append_two (Nat.not_lt.1 fun hshort => by rw [fcsOk_of_short hshort] at hok; nomatch hok)

theorem fcsOk_iff_residue (f : List Byte) : fcsOk f = true ↔ crcRegister f = 0xF0B8 := by
  by_cases hshort : f.length < 2
  · rw [fcsOk_of_short hshort]
    exact iff_of_false Bool.false_ne_true (crcRegister_ne_residue hshort)
  · obtain ⟨body, l, h, rfl⟩ := eq_append_two (Nat.not_lt.1 hshort)
    rw [fcsOk_append_two, beq_iff_eq, eq_fcsWire_iff_wireWord, crcRegister_append_two_iff]

section
variable {f : List Byte} {s : State} (hmode : s.cfg.fcsMode = .crc16X25)
include hmode

theorem exec_parse_fcsBad (hbad : fcsOk f = false) : exec (.parse f) s = .next (parsedFcsBad s) := by
  simp only [exec, execParse, parseFrame, hmode, hbad, Bool.false_eq_true, if_false]
  rfl

/-- A good FCS is stripped: PARSE does what it does to the body with FCS_MODE = NONE. -/
theorem exec_parse_fcsOk (hok : fcsOk f = true) :
    ∃ t, exec (.parse (fcsBody f)) { s with cfg := { s.cfg with fcsMode := .none } } = .next t ∧
      exec (.parse f) s = .next { t with cfg := s.cfg } := by
  have hbody : parseFrame s.cfg.fcsMode f = parseFrame .none (fcsBody f) := by
    simp only [hmode, parseFrame, hok, if_true]
  simp only [exec, execParse, hbody]
  cases parseFrame .none (fcsBody f) with
  | null | fcsBad | frame p => exact ⟨_, rfl, rfl⟩

end

end Sys2Proof.Machine

/-! ### The statements of 42_ax25_decoder.md on the FCS and the control classes -/

namespace Sys2Proof.Encoding

open Sys2Proof.Machine Sys2Proof.Safety

/-- Settles O52: `fcs_ok` decides between the outcome FCS_BAD and the parse of the body. -/
theorem parseChecksTheFcsFirst : Obligations.ParseChecksTheFcsFirst := by
  intro s hmode
  refine ⟨fun f hshort => exec_parse_fcsBad hmode (fcsOk_of_short hshort), fun body l h hwrong => ?_,
    fun body l h hgood => ?_⟩
  · exact exec_parse_fcsBad hmode (Bool.eq_false_iff.2 (mt (fcsOk_append_two_iff body l h).1 hwrong))
  · have hparse := exec_parse_fcsOk hmode ((fcsOk_append_two_iff body l h).2 hgood)
    rwa [fcsBody_append_two] at hparse

/-- Settles O54: with a good FCS the two bytes make the register 0xFFFF before their sixteen turns, and the turns, being
injective, lead to the residue from there alone. -/
theorem fcsResidueIsEquivalent : Obligations.FcsResidueIsEquivalent := by
  refine fun f => ⟨⟨fun hok => ?_, ?_⟩, fcsOk_iff_residue f⟩
  · obtain ⟨body, l, h, rfl⟩ := eq_append_two_of_fcsOk hok
    exact ⟨body, l, h, rfl, (fcsOk_append_two_iff body l h).1 hok⟩
  · rintro ⟨body, l, h, rfl, hgood⟩
    exact (fcsOk_append_two_iff body l h).2 hgood

/-- Settles O53: the model's turn is the loop's, and the check value is computed. -/
theorem crcFollowsItsDefinition : Obligations.CrcFollowsItsDefinition := by
  refine ⟨fun bytes => ?_, by set_option maxRecDepth 20000 in decide⟩
  rw [← crcBit_eq_mod]
  rfl

/-- Settles O58: `classify` is counted over the 256 control bytes, class by class. -/
theorem classCounts : Obligations.ClassCounts := by
  refine ⟨?_, ?_, ?_, ?_⟩ <;> set_option maxRecDepth 4000 in decide

end Sys2Proof.Encoding

/-! ## Proofs: exceptions (60_exceptions.md) -/

namespace Sys2Proof.Exceptions

open Sys2Proof.Machine

/-- Settles O10: an RX byte touches the RX frame port or a counter only as a FEND that closes a frame, and the closing
delivers one frame, counts one other event or does nothing. -/
theorem rxByteHasAtMostOneEffect : Obligations.RxByteHasAtMostOneEffect := by
  intro s t b rest hin hstep
  rw [step_rxByte s b rest hin] at hstep
  cases hstep
  refine ⟨rxByte_txLine b _, rxByte_results b _, ?_⟩
  rcases rxByte_outcome b { s with inputs := rest } with hkept | ⟨hb, hout, hctr⟩
  · exact .inl hkept
  · rw [hout, hctr]
    rcases closeFrame_outcome { s with inputs := rest } with hidle | ⟨f, hdeliver, hcount⟩ | hother
    · exact .inl hidle
    · exact .inr (.inl ⟨hb, ⟨f, hdeliver⟩, hcount⟩)
    · exact .inr (.inr ⟨hb, hother⟩)

/-- Settles O3: a refusal and RESERVED_OP both raise their fault, which appends its record and nothing else (R231). -/
theorem refusedRecordChangesOnlyResults : Obligations.RefusedRecordChangesOnlyResults :=
  ⟨fun _ _ _ _ hin hd => step_of_refused hin hd, fun _ _ _ => rfl⟩

end Sys2Proof.Exceptions

/-! ## Proofs: reset and hazards (70_reset_and_hazards.md) -/

/-! ### A frame whose type byte is a FEND (R265) -/

namespace Sys2Proof.Machine

/-- A FEND right behind a FEND is skipped: the interval between them is empty (R132). -/
theorem rxByte_fend_openFrame (s : State) : rxByte fend (openFrame s) = openFrame s := by
  rw [rxByte_frame_fend rfl, closeFrame_empty rfl rfl]
  rfl

/-- From an opened interval on, an escaped sequence that fits and a FEND are `close_frame` with that sequence buffered. -/
theorem rxBytes_escape_fend (bytes : List Byte) {s : State} (hfit : bytes.length ≤ s.cfg.rxMax) :
    rxBytes (escape bytes ++ [fend]) (openFrame s) = openFrame (closeFrame { openFrame s with rxBuf := bytes }) := by
  rw [rxBytes_append, rxBytes_escape bytes rfl rfl (by simpa using hfit), rxBytes_cons, rxBytes_nil, rxByte_frame_fend rfl]
  rfl

/-- A type byte that is a FEND is skipped, and the interval holds the payload alone (R265). -/
theorem rxBytes_kissFrame_fend (payload : List Byte) {s : State} (hm : s.rxMode = .hunt)
    (hfit : payload.length ≤ s.cfg.rxMax) :
    rxBytes (kissFrame fend payload) s = openFrame (closeFrame { openFrame s with rxBuf := payload }) := by
  rw [kissFrame, rxBytes_cons, rxByte_hunt_fend hm, rxBytes_cons, rxByte_fend_openFrame, rxBytes_escape_fend payload hfit]

end Sys2Proof.Machine

/-! ### The statement of 70_reset_and_hazards.md on port 12 -/

namespace Sys2Proof.Hazards

open Sys2Proof.Machine Sys2Proof.Safety

/-- Settles O40: the closing FEND closes an interval that holds the payload alone, whose first byte is read as its type. -/
theorem portTwelveFrameIsMisread : Obligations.PortTwelveFrameIsMisread := by
  intro cfg p payload t hroom hsend
  have hline : t.txLine = kissFrame fend (p :: payload) := by cases hsend; rfl
  refine ⟨_, run_onLine _ _, ?_⟩
  rw [hline, rxBytes_kissFrame_fend (p :: payload) (s := State.resetWith cfg) rfl hroom]
  refine ⟨fun hdata => ?_, fun hother => ?_⟩
  · rw [closeFrame_data rfl rfl ((typeCmd_eq_zero_iff_mod p).2 hdata), typePort_eq]
    exact ⟨rfl, rfl⟩
  · rw [closeFrame_nondata rfl rfl (mt (typeCmd_eq_zero_iff_mod p).1 hother)]
    exact ⟨rfl, rfl⟩

end Sys2Proof.Hazards
